-- ==== Sys2Proof/Word.lean ====
section
/-! DEFINITION. The widths of the spec (00_scope.md R10): every value is an unsigned number of a stated width. -/

namespace Sys2Proof

/-- A nibble: a capture symbol or the operand form `n4` (30_encoding.md R52, R55). -/
abbrev Nibble := BitVec 4

/-- A byte: the operand form `b8`, a stream byte, a bridge command byte (30_encoding.md R52, R57, R62). -/
abbrev Byte := BitVec 8

/-- A 16-bit value: the CRC, the operand form `v16`, a response's data (30_encoding.md R52, R54). -/
abbrev Word := BitVec 16

/-- A request word (30_encoding.md R50, R51). -/
abbrev RequestWord := BitVec 20

end Sys2Proof
end

