-- ==== Sys2Proof/Machine/Constants.lean ====
section
/-! DEFINITION. The spec's numeric literals as named constants, because the source's literals are unaudited
(93_implementation_defined.md I15: "a model should keep them as named constants so a correction is one edit"). -/

namespace Sys2Proof.Machine

/-- The CRC polynomial (00_scope.md R4, 40_checksum.md R80). -/
def crcPoly : Word := 0x1021#16

/-- CHUNK_MAX: the most data bytes of one chunk command (00_scope.md R5). -/
def chunkMax : Nat := 64

/-- Bytes of a status record (41_session_boundary.md R105). -/
def statusBytes : Nat := 80

/-- Bytes of a scan response (30_encoding.md R68). -/
def scanBytes : Nat := 112

/-- The first address of a scan (30_encoding.md R68). -/
def scanFirst : Nat := 8

/-- The scan byte that means present, `'1'` (30_encoding.md R68, 90_conflicts.md C3). -/
def scanPresent : Byte := 0x31#8

/-- The handshake's test bytes in order (30_encoding.md R67). -/
def probeBytes : List Byte := [0x41#8, 0x0D#8, 0x0A#8, 0xFF#8]

/-! The operation codes of a request word (30_encoding.md R51). -/

def opCrcSeed : Nibble := 0x1#4
def opCrcUpdateByte : Nibble := 0x2#4
def opCrcUpdateNibble : Nibble := 0x3#4
def opCrcRead : Nibble := 0x4#4
def opCrcCheck : Nibble := 0x5#4
def opCapEnter : Nibble := 0x6#4
def opCapSymbol : Nibble := 0x7#4
def opCapByte : Nibble := 0x8#4
def opDisconnect : Nibble := 0x9#4
def opErrRead : Nibble := 0xA#4

/-! The bridge command bytes (30_encoding.md R62). -/

def cmdMonitorOff : Byte := 0x20#8
def cmdStatus : Byte := 0x3F#8
def cmdEnterCapture : Byte := 0x63#8
def cmdScan : Byte := 0x64#8
def cmdEchoProbe : Byte := 0x65#8
def cmdMonitorOn : Byte := 0x6D#8
def cmdI2cStop : Byte := 0x70#8
def cmdI2cStart : Byte := 0x73#8
def cmdBusReset : Byte := 0x78#8
/-- The first read-chunk command, bits 7:6 = 0b10 (30_encoding.md R64). -/
def cmdReadChunk : Byte := 0x80#8
/-- The first write-chunk command, bits 7:6 = 0b11 (30_encoding.md R64). -/
def cmdWriteChunk : Byte := 0xC0#8

end Sys2Proof.Machine
end

