-- ==== Sys2Proof/Syntax.lean ====
section
/-! DEFINITION. The instructions: one constructor per row of spec/opcode_table.json, in the table's order; the encodings
they are written in; the bus events and the host's procedures. -/

namespace Sys2Proof

/-- A transfer direction: bit value 0 is write, 1 is read (30_encoding.md R60, R63). -/
inductive Direction where
  | write
  | read
deriving DecidableEq, Repr

/-- A bus acknowledgment (00_scope.md R12). -/
inductive Ack where
  | ack
  | nak
deriving DecidableEq, Repr

/-- The decoder's output value (30_encoding.md R61): an abstract value without a bit layout. -/
inductive BusEvent where
  | start (address : BitVec 7) (dir : Direction) (outcome : Ack)
  | byte (value : Byte) (outcome : Ack)
  | stop
deriving DecidableEq, Repr

/-- What an instruction is written in. The spec has three encodings, each with a place of its own where it is read: the
request word of the block's port (30_encoding.md R51), the capture symbol (R55), and the bytes of a bridge command that the
host sends, the command byte and its further bytes (R62). -/
inductive Encoding where
  | request (w : RequestWord)
  | symbol (s : Nibble)
  | command (bytes : List Byte)
deriving DecidableEq, Repr

/-- The instructions. -/
inductive Instr where
  -- requests (30_encoding.md R51)
  | crcSeed (v : Word)
  | crcUpdateByte (b : Byte)
  | crcUpdateNibble (n : Nibble)
  | crcRead
  | crcCheck (v : Word)
  | capEnter
  | capSymbol (s : Nibble)
  | capByte (b : Byte)
  | disconnect
  | errRead
  -- reserved operation codes with any operand (30_encoding.md R53)
  | reservedOp0 (operand : Word)
  | reservedOpB (operand : Word)
  | reservedOpC (operand : Word)
  | reservedOpD (operand : Word)
  | reservedOpE (operand : Word)
  | reservedOpF (operand : Word)
  -- capture symbols (30_encoding.md R55)
  | symIdle
  | symStart
  | symStop
  | symReserved3
  | symReserved4To7 (low : BitVec 2)
  | symData (d : BitVec 3)
  -- bridge commands with the further bytes the host sends (30_encoding.md R62 to R64, R67)
  | hostMonitorOff
  | hostStatus
  | hostEnterCapture
  | hostScan
  | hostEchoProbe (test : Byte)
  | hostMonitorOn
  | hostI2cStop
  | hostI2cStart (address : BitVec 7) (dir : Direction)
  | hostBusReset
  | hostReadChunk (nMinus1 : BitVec 6)
  | hostWriteChunk (nMinus1 : BitVec 6) (data : List Byte)
deriving DecidableEq, Repr

/-- The host's procedures that are longer than one command (41_session_boundary.md). -/
inductive HostOp where
  /-- R104: the four probes, the status query, the seed. -/
  | connect
  /-- R110: an I2C write of these bytes. -/
  | write (bytes : List Byte)
  /-- R111: an I2C read of this many bytes. -/
  | read (count : Nat)
  /-- R112: take one received byte of the capture stream and issue CAP_BYTE. -/
  | captureRead
  /-- R100, R112, R141, R187: tear the session down (disconnect, and the cancel of a capture). -/
  | close
deriving DecidableEq, Repr

/-- One item of what the outside world gives the machine to do. -/
inductive Input where
  /-- An encoded instruction. -/
  | code (e : Encoding)
  /-- A procedure of the host. -/
  | op (o : HostOp)
  /-- The reset signal, which has no request word (70_reset_and_hazards.md R180). -/
  | reset
  /-- The host's process exits (41_session_boundary.md R100); what follows it: notes/assumptions/31.md. -/
  | exit
deriving DecidableEq, Repr

/-- The assembler's pseudo-requests (30_encoding.md R69). -/
inductive Pseudo where
  | connect (v : Word)
  | crcUpdate (bytes : List Byte)
  | capStream (bytes : List Byte)
  | capCancel
deriving DecidableEq, Repr

/-- The expansions of the pseudo-requests (30_encoding.md R69). -/
def Pseudo.expand : Pseudo → List Instr
  | .connect v => [.crcSeed v]
  | .crcUpdate bytes => bytes.map .crcUpdateByte
  | .capStream bytes => bytes.map .capByte
  | .capCancel => [.disconnect]

end Sys2Proof
end

