-- ==== Sys2Proof/Machine/Operands.lean ====
section
/-! DEFINITION. Every operand form and every field the spec cuts out of a word, a byte or a group (30_encoding.md R51,
R52, R57 to R60, R63 to R66, R68). -/

namespace Sys2Proof.Machine

/-! ## The request word -/

/-- `op` = bits 19:16 of a request word (30_encoding.md R51). -/
def opField (w : RequestWord) : Nibble := w.extractLsb' 16 4

/-- `operand` = bits 15:0 of a request word (30_encoding.md R51). -/
def operandField (w : RequestWord) : Word := w.extractLsb' 0 16

/-- The request word `{op, operand}` (30_encoding.md R51, R69). -/
def requestWord (op : Nibble) (operand : Word) : RequestWord := op ++ operand

/-- The form `b8`: bits 7:0, with bits 15:8 zero (30_encoding.md R52). -/
def operandB8 (x : Word) : Option Byte :=
  if x.extractLsb' 8 8 = 0#8 then some (x.extractLsb' 0 8) else none

/-- The form `n4`: bits 3:0, with bits 15:4 zero (30_encoding.md R52). -/
def operandN4 (x : Word) : Option Nibble :=
  if x.extractLsb' 4 12 = 0#12 then some (x.extractLsb' 0 4) else none

/-- The form with no value: every operand bit zero (30_encoding.md R52). -/
def operandNone (x : Word) : Option Unit :=
  if x = 0#16 then some () else none

/-! ## Nibbles of a byte -/

/-- Bits 7:4 of a byte: the first symbol of a stream byte, the first nibble of a CRC byte (30_encoding.md R57, 40_checksum.md R82). -/
def highNibble (b : Byte) : Nibble := b.extractLsb' 4 4

/-- Bits 3:0 of a byte (30_encoding.md R57, 40_checksum.md R82). -/
def lowNibble (b : Byte) : Nibble := b.extractLsb' 0 4

/-! ## The capture symbol and the 9-bit group -/

/-- The three data bits `s[2:0]` of a data symbol (30_encoding.md R55). -/
def symbolData (s : Nibble) : BitVec 3 := s.extractLsb' 0 3

/-- `payload = group[8:1]` (30_encoding.md R59). -/
def groupPayload (g : BitVec 9) : Byte := g.extractLsb' 1 8

/-- `ack = !group[0]`: on the bus a 0 bit is ACK (30_encoding.md R59, 41_session_boundary.md R115). -/
def groupAck (g : BitVec 9) : Ack := if g.getLsbD 0 then .nak else .ack

/-- A direction bit: 0 is write, 1 is read (30_encoding.md R60, R63). -/
def directionOfBit (b : Bool) : Direction := if b then .read else .write

/-- The bit of a direction (30_encoding.md R63). -/
def directionBit : Direction → BitVec 1
  | .write => 0#1
  | .read => 1#1

/-- `address = payload[7:1]` (30_encoding.md R60). -/
def payloadAddress (p : Byte) : BitVec 7 := p.extractLsb' 1 7

/-- `direction = payload[0]` (30_encoding.md R60). -/
def payloadDirection (p : Byte) : Direction := directionOfBit (p.getLsbD 0)

/-- The event of an address-phase group (42_capture_decoder.md R137). -/
def startEvent (g : BitVec 9) : BusEvent :=
  .start (payloadAddress (groupPayload g)) (payloadDirection (groupPayload g)) (groupAck g)

/-- The event of a data-phase group (42_capture_decoder.md R138). -/
def byteEvent (g : BitVec 9) : BusEvent := .byte (groupPayload g) (groupAck g)

/-! ## Bridge bytes -/

/-- The byte after `'s'`: `(address << 1) | direction-bit` (30_encoding.md R63). -/
def startAddressByte (address : BitVec 7) (dir : Direction) : Byte := address ++ directionBit dir

/-- A start ack byte: bit 0 = 1 is ACK, bits 7:1 ignored (30_encoding.md R63). -/
def startAck (a : Byte) : Ack := if a.getLsbD 0 then .ack else .nak

/-- Whether a write-chunk ack byte acknowledges, given the value of bit 0 that means ACK (30_encoding.md R65). -/
def writeAcked (ackBit : Bool) (a : Byte) : Bool := a.getLsbD 0 == ackBit

/-- The length field `cmd[5:0]` of a chunk command (30_encoding.md R64). -/
def chunkLengthField (cmd : Byte) : BitVec 6 := cmd.extractLsb' 0 6

/-- The number of data bytes that a length field announces: n = field + 1 (30_encoding.md R64). -/
def chunkLength (nMinus1 : BitVec 6) : Nat := nMinus1.toNat + 1

/-- The read-chunk command byte `0x80 + (n-1)`, bits 7:6 = 0b10 (30_encoding.md R64). -/
def readChunkByte (nMinus1 : BitVec 6) : Byte := cmdReadChunk + nMinus1.zeroExtend 8

/-- The write-chunk command byte `0xC0 + (n-1)`, bits 7:6 = 0b11 (30_encoding.md R64). -/
def writeChunkByte (nMinus1 : BitVec 6) : Byte := cmdWriteChunk + nMinus1.zeroExtend 8

/-- The length field of a chunk of `n` bytes, 1 ≤ n ≤ 64 (30_encoding.md R64). -/
def lengthFieldOf (n : Nat) : BitVec 6 := BitVec.ofNat 6 (n - 1)

/-- SDA of a bus-reset status byte: bit 1 (30_encoding.md R66). -/
def resetSda (b : Byte) : Bool := b.getLsbD 1

/-- SCL of a bus-reset status byte: bit 0 (30_encoding.md R66). -/
def resetScl (b : Byte) : Bool := b.getLsbD 0

/-- The presence flags of a scan response, address 8 first (30_encoding.md R68). -/
def scanFlags (bytes : List Byte) : List Bool := bytes.map (· == scanPresent)

/-- What a scan says of an address (41_session_boundary.md R106). -/
inductive Presence where
  | present
  | absent
  | notScanned
deriving DecidableEq, Repr

/-- The answer of a scan for a 7-bit address: byte `i` is address `8 + i`, the others are "not scanned"
(41_session_boundary.md R106, 20_memory.md R41). -/
def scanPresence (flags : List Bool) (address : BitVec 7) : Presence :=
  if address.toNat < scanFirst then .notScanned
  else
    match flags[address.toNat - scanFirst]? with
    | some true => .present
    | some false => .absent
    | none => .notScanned

end Sys2Proof.Machine
end

