-- ==== Sys2Proof/WellFormed.lean ====
section
/-! DEFINITION. Which instructions can be written. The widths of the operand forms (30_encoding.md R52) are the types of
the constructors' arguments; the one relation between two operands is the length of a write chunk's data. -/

namespace Sys2Proof

/-- A write chunk carries exactly the n data bytes its length field announces (30_encoding.md R64); nothing else can be
written wrongly. -/
def Instr.WellFormed : Instr → Bool
  | .hostWriteChunk nMinus1 data => data.length == nMinus1.toNat + 1
  | .crcSeed _ | .crcUpdateByte _ | .crcUpdateNibble _ | .crcRead | .crcCheck _ | .capEnter | .capSymbol _ | .capByte _
  | .disconnect | .errRead | .reservedOp0 _ | .reservedOpB _ | .reservedOpC _ | .reservedOpD _ | .reservedOpE _
  | .reservedOpF _ | .symIdle | .symStart | .symStop | .symReserved3 | .symReserved4To7 _ | .symData _ | .hostMonitorOff
  | .hostStatus | .hostEnterCapture | .hostScan | .hostEchoProbe _ | .hostMonitorOn | .hostI2cStop | .hostI2cStart _ _
  | .hostBusReset | .hostReadChunk _ => true

end Sys2Proof
end

