-- ==== Sys2Proof/Decode.lean ====
section
/-! DEFINITION. The decoder, total on request words, symbols and command bytes, rejecting by name; the encoder, written
from the same tables (30_encoding.md R51 to R53, R55, R62 to R64); and the opcode table's own numbering of words. -/

namespace Sys2Proof

open Sys2Proof.Machine

/-- Why an encoding is no instruction. -/
inductive DecodeError where
  /-- The request's operand has a 1 in a bit that must be zero (30_encoding.md R53): the block answers BAD_REQUEST. -/
  | mustBeZero (w : RequestWord)
  /-- The byte is no bridge command (30_encoding.md R62). -/
  | notACommand (b : Byte)
  /-- The command's further bytes are missing (30_encoding.md R62, "further bytes sent"). -/
  | truncated (cmd : Byte)
  /-- No command byte at all. -/
  | noCommand
deriving DecidableEq, Repr

/-! ## Decoding -/

/-- A request word (30_encoding.md R51 to R53). -/
def decodeRequest (w : RequestWord) : Except DecodeError Instr :=
  let x := operandField w
  match (opField w).toNat with
  | 0x0 => .ok (.reservedOp0 x)
  | 0x1 => .ok (.crcSeed x)
  | 0x2 => match operandB8 x with
    | some b => .ok (.crcUpdateByte b)
    | none => .error (.mustBeZero w)
  | 0x3 => match operandN4 x with
    | some n => .ok (.crcUpdateNibble n)
    | none => .error (.mustBeZero w)
  | 0x4 => match operandNone x with
    | some () => .ok .crcRead
    | none => .error (.mustBeZero w)
  | 0x5 => .ok (.crcCheck x)
  | 0x6 => match operandNone x with
    | some () => .ok .capEnter
    | none => .error (.mustBeZero w)
  | 0x7 => match operandN4 x with
    | some s => .ok (.capSymbol s)
    | none => .error (.mustBeZero w)
  | 0x8 => match operandB8 x with
    | some b => .ok (.capByte b)
    | none => .error (.mustBeZero w)
  | 0x9 => match operandNone x with
    | some () => .ok .disconnect
    | none => .error (.mustBeZero w)
  | 0xA => match operandNone x with
    | some () => .ok .errRead
    | none => .error (.mustBeZero w)
  | 0xB => .ok (.reservedOpB x)
  | 0xC => .ok (.reservedOpC x)
  | 0xD => .ok (.reservedOpD x)
  | 0xE => .ok (.reservedOpE x)
  | _ => .ok (.reservedOpF x)

/-- A capture symbol (30_encoding.md R55): bit 3 selects the data class, bits 2:0 a control symbol. -/
def decodeSymbol (s : Nibble) : Instr :=
  if s.getLsbD 3 then .symData (symbolData s)
  else match s.toNat with
    | 0 => .symIdle
    | 1 => .symStart
    | 2 => .symStop
    | 3 => .symReserved3
    | _ => .symReserved4To7 (s.extractLsb' 0 2)

/-- The first command of a sequence of bytes the host sends, and the bytes after it (30_encoding.md R62 to R64). -/
def decodeCommand : List Byte → Except DecodeError (Instr × List Byte)
  | [] => .error .noCommand
  | cmd :: rest =>
    if cmd.extractLsb' 6 2 = 0b11#2 then
      if rest.length < chunkLength (chunkLengthField cmd) then .error (.truncated cmd)
      else .ok (.hostWriteChunk (chunkLengthField cmd) (rest.take (chunkLength (chunkLengthField cmd))),
        rest.drop (chunkLength (chunkLengthField cmd)))
    else if cmd.extractLsb' 6 2 = 0b10#2 then .ok (.hostReadChunk (chunkLengthField cmd), rest)
    else if cmd = cmdMonitorOff then .ok (.hostMonitorOff, rest)
    else if cmd = cmdStatus then .ok (.hostStatus, rest)
    else if cmd = cmdEnterCapture then .ok (.hostEnterCapture, rest)
    else if cmd = cmdScan then .ok (.hostScan, rest)
    else if cmd = cmdEchoProbe then
      match rest with
      | [] => .error (.truncated cmd)
      | test :: rest => .ok (.hostEchoProbe test, rest)
    else if cmd = cmdMonitorOn then .ok (.hostMonitorOn, rest)
    else if cmd = cmdI2cStop then .ok (.hostI2cStop, rest)
    else if cmd = cmdI2cStart then
      match rest with
      | [] => .error (.truncated cmd)
      | a :: rest => .ok (.hostI2cStart (payloadAddress a) (payloadDirection a), rest)
    else if cmd = cmdBusReset then .ok (.hostBusReset, rest)
    else .error (.notACommand cmd)

/-- Any encoding: its first instruction, and for a command the bytes that follow it. -/
def decode : Encoding → Except DecodeError (Instr × List Byte)
  | .request w => (decodeRequest w).map (·, [])
  | .symbol s => .ok (decodeSymbol s, [])
  | .command bytes => decodeCommand bytes

/-! ## Encoding -/

/-- The encoding of an instruction (30_encoding.md R51, R52, R55, R62 to R64, R67). -/
def encode : Instr → Encoding
  | .crcSeed v => .request (requestWord opCrcSeed v)
  | .crcUpdateByte b => .request (requestWord opCrcUpdateByte (b.zeroExtend 16))
  | .crcUpdateNibble n => .request (requestWord opCrcUpdateNibble (n.zeroExtend 16))
  | .crcRead => .request (requestWord opCrcRead 0#16)
  | .crcCheck v => .request (requestWord opCrcCheck v)
  | .capEnter => .request (requestWord opCapEnter 0#16)
  | .capSymbol s => .request (requestWord opCapSymbol (s.zeroExtend 16))
  | .capByte b => .request (requestWord opCapByte (b.zeroExtend 16))
  | .disconnect => .request (requestWord opDisconnect 0#16)
  | .errRead => .request (requestWord opErrRead 0#16)
  | .reservedOp0 x => .request (requestWord 0x0#4 x)
  | .reservedOpB x => .request (requestWord 0xB#4 x)
  | .reservedOpC x => .request (requestWord 0xC#4 x)
  | .reservedOpD x => .request (requestWord 0xD#4 x)
  | .reservedOpE x => .request (requestWord 0xE#4 x)
  | .reservedOpF x => .request (requestWord 0xF#4 x)
  | .symIdle => .symbol 0x0#4
  | .symStart => .symbol 0x1#4
  | .symStop => .symbol 0x2#4
  | .symReserved3 => .symbol 0x3#4
  | .symReserved4To7 low => .symbol (0b01#2 ++ low)
  | .symData d => .symbol (0b1#1 ++ d)
  | .hostMonitorOff => .command [cmdMonitorOff]
  | .hostStatus => .command [cmdStatus]
  | .hostEnterCapture => .command [cmdEnterCapture]
  | .hostScan => .command [cmdScan]
  | .hostEchoProbe test => .command [cmdEchoProbe, test]
  | .hostMonitorOn => .command [cmdMonitorOn]
  | .hostI2cStop => .command [cmdI2cStop]
  | .hostI2cStart address dir => .command [cmdI2cStart, startAddressByte address dir]
  | .hostBusReset => .command [cmdBusReset]
  | .hostReadChunk nMinus1 => .command [readChunkByte nMinus1]
  | .hostWriteChunk nMinus1 data => .command (writeChunkByte nMinus1 :: data)

/-- The request word of a request (every request's encoding is one; 0 for the rows that are none). -/
def encodeRequest (i : Instr) : RequestWord :=
  match encode i with
  | .request w => w
  | .symbol _ => 0#20
  | .command _ => 0#20

/-- The bytes of a bridge command (none for the rows that are none). -/
def encodeCommand (i : Instr) : List Byte :=
  match encode i with
  | .command bytes => bytes
  | .request _ => []
  | .symbol _ => []

/-! ## The opcode table's words -/

/-- How many further bytes the host sends after a command byte (30_encoding.md R62). -/
def furtherBytes (cmd : Byte) : Nat :=
  if cmd.extractLsb' 6 2 = 0b11#2 then chunkLength (chunkLengthField cmd)
  else if cmd = cmdEchoProbe then 1
  else if cmd = cmdI2cStart then 1
  else 0

/-- The encoding that the opcode table's word `w` of a row of `nbits` bits stands for. A row of more than 8 bits is a
request word (format REQ20). A row of at most 8 bits is a symbol when its value is below 16 (format SYM4) and a bridge
command byte otherwise (format HOSTCMD8, whose bytes all lie at 0x20 and above); its further bytes are zeros. -/
def tableEncoding (nbits w : Nat) : Option Encoding :=
  if nbits ≤ 8 then
    if w < 16 then some (.symbol (BitVec.ofNat 4 w))
    else if w < 256 then
      some (.command (BitVec.ofNat 8 w :: List.replicate (furtherBytes (BitVec.ofNat 8 w)) 0#8))
    else none
  else if w < 2 ^ 20 then some (.request (BitVec.ofNat 20 w))
  else none

/-- The instruction the decoder reads from a word of the opcode table. -/
def decodeTableWord (nbits w : Nat) : Option Instr :=
  match tableEncoding nbits w with
  | none => none
  | some e =>
    match decode e with
    | .ok (i, _) => some i
    | .error _ => none

end Sys2Proof
end

