-- ==== Sys2Proof/Config.lean ====
section
/-! DEFINITION. What the spec leaves as a parameter (00_scope.md R6 to R9, 30_encoding.md R65) and the one free value
of the model. `exec` and `step` take no argument for them, so State holds a `Params`, which no step writes: a claim about
every state is a claim about every choice of the parameters. -/

namespace Sys2Proof

/-- RESERVED_SYMBOL_POLICY (00_scope.md R6). -/
inductive ReservedSymbolPolicy where
  | fault
  | ignore
deriving DecidableEq, Repr

/-- WRITE_NAK_CRC_POLICY (00_scope.md R7). -/
inductive WriteNakCrcPolicy where
  | skipOnNak
  | always
deriving DecidableEq, Repr

/-- READ_CHUNK_POLICY (00_scope.md R8). -/
inductive ReadChunkPolicy where
  | remaining
  | reference
deriving DecidableEq, Repr

/-- The parameters of one machine. -/
structure Params where
  /-- RESERVED_SYMBOL_POLICY, 00_scope.md R6. -/
  reservedSymbol : ReservedSymbolPolicy
  /-- WRITE_NAK_CRC_POLICY, 00_scope.md R7. -/
  writeNakCrc : WriteNakCrcPolicy
  /-- READ_CHUNK_POLICY, 00_scope.md R8. -/
  readChunk : ReadChunkPolicy
  /-- TRANSPORT_TIMEOUT, 00_scope.md R9: `none`, or a duration. The model has no time; the duration only says that a
  deadline exists. -/
  timeout : Option Nat
  /-- The value of bit 0 of a write-chunk ack byte that means ACK (30_encoding.md R65; 93_implementation_defined.md I8
  makes it a parameter of a host model). -/
  writeAckBit : Bool
deriving DecidableEq, Repr

/-- The spec's own values (00_scope.md R6 to R9, 30_encoding.md R65). -/
def Params.spec : Params where
  reservedSymbol := .fault
  writeNakCrc := .skipOnNak
  readChunk := .remaining
  timeout := none
  writeAckBit := true

/-- The CRC field of an 80-byte status record, or `none` for a malformed record. The sources do not give the record's
layout (91_not_in_source.md N12: "Do not assume: a parser"), and the spec leaves its parser out (00_scope.md R3), so this is
a free function of the bytes: no proof can see a value of it. DESIGN CHOICE, safe: notes/assumptions/7.md. -/
opaque Config.parseStatusCrc : List Byte → Option Word

end Sys2Proof
end

