-- ==== Sys2Proof/Machine/State.lean ====
section
/-! DEFINITION. State as plain data: the block's registers (10_state.md R20 to R27), the parameters, the ports, and the
host's driver at the boundary (41_session_boundary.md); the reasons a step can stop; the state after reset. -/

namespace Sys2Proof.Machine

/-- The block has no traps (60_exceptions.md R160): an error is a response and a sticky flag, which is a next state. No
step of this machine ends in a fault, and the type has no constructor. -/
inductive Fault where
deriving DecidableEq, Repr

/-- Why a step is refused. -/
inductive Refusal where
  /-- Raised by an arm of `exec` whose instruction has no meaning in the model (no arm is left). Safe. -/
  | notModelled (mnemonic : String)
  /-- Raised by fetching a host command: the byte is no bridge command. 30_encoding.md R62: "a host model should refuse
  one". Safe: notes/assumptions/5.md. -/
  | unknownCommand (b : Byte)
  /-- Raised by fetching a host command whose further bytes are missing, which no procedure of 41_session_boundary.md
  sends. Safe: notes/assumptions/5.md. -/
  | truncatedCommand (cmd : Byte)
  /-- Raised by fetching a host read of more than 64 bytes under READ_CHUNK_POLICY = reference. 41_session_boundary.md
  R111: "refuses every read of more than 64 bytes by name". Safe: notes/assumptions/6.md. -/
  | referenceReadChunking (count : Nat)
deriving DecidableEq, Repr

/-- The block's registers, the whole tuple of 10_state.md R20. -/
structure Block where
  /-- 10_state.md R21. -/
  crc : Word
  /-- 10_state.md R22. -/
  connected : Bool
  /-- 10_state.md R23. -/
  capActive : Bool
  /-- 10_state.md R24. -/
  pendingStart : Bool
  /-- 10_state.md R25. -/
  accValue : BitVec 9
  /-- 10_state.md R26. -/
  accCount : BitVec 4
  /-- 10_state.md R27. -/
  errFlags : Byte
deriving DecidableEq, Repr

/-- The block after reset (10_state.md R30, 70_reset_and_hazards.md R180). -/
def Block.reset : Block where
  crc := 0x0000#16
  connected := false
  capActive := false
  pendingStart := false
  accValue := 0#9
  accCount := 0#4
  errFlags := 0x00#8

/-- The answer to one request (30_encoding.md R54). -/
structure Response where
  code : BitVec 3
  data : Word
  events : List BusEvent
deriving DecidableEq, Repr

/-- One thing the transport gives the host's `read_exact` (41_session_boundary.md R116): a byte from the bridge, an I/O
failure, or the expiry of the host's deadline (00_scope.md R9). -/
inductive Delivery where
  | byte (b : Byte)
  | failure
  | deadline
deriving DecidableEq, Repr

/-- What the reply that the driver waits for is for. -/
inductive Purpose where
  /-- The echo of a probe's test byte (41_session_boundary.md R104). -/
  | echo (test : Byte)
  /-- A status record (R105). -/
  | status
  /-- A scan response (R106). -/
  | scan
  /-- A bus-reset status byte (R107). -/
  | busReset
  /-- A start ack byte (R108). -/
  | startAck
  /-- The ack byte of a write chunk of these bytes (R110). -/
  | writeAck (data : List Byte)
  /-- The data of a read chunk (R111). -/
  | readData
  /-- One byte of the capture stream (R112). -/
  | captureByte
deriving DecidableEq, Repr

/-- A `read_exact` in progress (41_session_boundary.md R116). -/
structure Await where
  count : Nat
  purpose : Purpose
deriving DecidableEq, Repr

/-- The host's procedure in progress (41_session_boundary.md R104, R110, R111). -/
inductive Task where
  | idle
  /-- Connecting: the probes still to send, then the status query. -/
  | connect (probes : List Byte)
  /-- Writing: bytes still to send, bytes sent, and `all_ack`. -/
  | write (left sent : List Byte) (allAck : Bool)
  /-- Reading: how many bytes are still to be read, and the bytes read. -/
  | read (left : Nat) (got : List Byte)
deriving DecidableEq, Repr

/-- What the driver reports of a command or a procedure (41_session_boundary.md, 60_exceptions.md R166). -/
inductive HostResult where
  /-- NotConnected (41_session_boundary.md R114). -/
  | notConnected
  /-- Not issued, because capture mode is active (41_session_boundary.md R114, 70_reset_and_hazards.md R183). -/
  | captureActive
  /-- Not issued, because the channel still carries the stream of a capture that has ended (70_reset_and_hazards.md R187,
  93_implementation_defined.md I11). -/
  | channelAbandoned
  /-- A byte of the capture stream was asked for outside capture mode. -/
  | notCapturing
  /-- TransportError (41_session_boundary.md R116). -/
  | transportError
  /-- HandshakeFailed (R104). -/
  | handshakeFailed
  /-- StatusParseError (R104, R105). -/
  | statusParseError
  /-- Timeout (00_scope.md R9, 60_exceptions.md R166). -/
  | timeout
  /-- A command without a reply was sent (R109, R112, R113). -/
  | sent
  /-- A probe outside a connect was echoed. -/
  | echoed
  /-- A session was opened with this device CRC (R104). -/
  | session (crc : Word)
  /-- The CRC field of a status record (R105). -/
  | status (crc : Word)
  /-- The presence flags of addresses 8 to 119 (R106). -/
  | scan (flags : List Bool)
  /-- Bus levels after a bus reset (R107). -/
  | levels (sda scl : Bool)
  /-- The ack of an I2C start (R108). -/
  | started (outcome : Ack)
  /-- The ack of a whole write (R110). -/
  | written (outcome : Ack)
  /-- The bytes of a whole read (R111). -/
  | data (bytes : List Byte)
  /-- The session was torn down (R100). -/
  | closed
deriving DecidableEq, Repr

/-- What the host's channel to the bridge carries. -/
inductive Channel where
  /-- Commands and their replies. -/
  | clear
  /-- The stream of a capture (41_session_boundary.md R112). -/
  | stream
  /-- The stream of a capture that ended without closing the channel, while another capture was entered
  (70_reset_and_hazards.md R187). -/
  | oldStream
deriving DecidableEq, Repr

/-- The host's driver (41_session_boundary.md). -/
structure Driver where
  /-- Everything `write_exact` has sent, oldest first (R116). -/
  tx : List Byte
  /-- Everything `read_exact` will be given, next first (R116). -/
  rx : List Delivery
  /-- Whether `write_exact` fails (R116). -/
  linkDown : Bool
  /-- What the channel carries: notes/assumptions/14.md. -/
  channel : Channel
  /-- The `read_exact` in progress, if any. -/
  awaiting : Option Await
  /-- The procedure in progress. -/
  task : Task
  /-- What the driver has reported, oldest first. -/
  results : List HostResult
deriving DecidableEq, Repr

/-- The driver before anything is asked of it: DESIGN CHOICE, notes/assumptions/21.md. -/
def Driver.reset : Driver where
  tx := []
  rx := []
  linkDown := false
  channel := .clear
  awaiting := none
  task := .idle
  results := []

/-- The machine: one block, its ports, and the host's driver. -/
structure State where
  /-- The parameters (00_scope.md R6 to R9); no step writes them. -/
  params : Params
  /-- The block's registers (10_state.md R20). -/
  block : Block
  /-- Requests the driver has issued and the block has not answered, next first. -/
  issued : List RequestWord
  /-- What the outside world asks next, next first (10_state.md R29, "the request sequence"). -/
  inputs : List Input
  /-- Every response given, oldest first (30_encoding.md R54). -/
  responses : List Response
  /-- The host's driver. -/
  host : Driver
deriving DecidableEq, Repr

/-- The machine right after reset (10_state.md R30), with the spec's parameters and nothing asked of it yet. -/
def State.reset : State where
  params := Params.spec
  block := Block.reset
  issued := []
  inputs := []
  responses := []
  host := Driver.reset

end Sys2Proof.Machine
end

