-- ==== Sys2Proof/Machine/Flags.lean ====
section
/-! DEFINITION. The error codes and the sticky register `err_flags` (10_state.md R27, 60_exceptions.md R161, R162). -/

namespace Sys2Proof.Machine

/-- The errors the block raises (60_exceptions.md R161). -/
inductive ErrorKind where
  | badRequest
  | notConnected
  | captureBusy
  | notInCapture
  | reservedSymbol
deriving DecidableEq, Repr

/-- The code of an error (60_exceptions.md R161). -/
def errorCode : ErrorKind → BitVec 3
  | .badRequest => 1#3
  | .notConnected => 2#3
  | .captureBusy => 3#3
  | .notInCapture => 4#3
  | .reservedSymbol => 5#3

/-- The bit number of an error in `err_flags`: `k - 1` for code `k` (60_exceptions.md R162). -/
def errorBit (e : ErrorKind) : Nat := (errorCode e).toNat - 1

/-- The bit number of the warning CHECKSUM_MISMATCH (10_state.md R27). -/
def mismatchBit : Nat := 5

/-- `err_flags[i] <- 1`, the other bits kept (10_state.md R27: sticky). -/
def setFlag (i : Nat) (b : Block) : Block :=
  { b with errFlags := b.errFlags ||| (1#8 <<< i) }

end Sys2Proof.Machine
end

