-- ==== Sys2Proof/Machine/Ops.lean ====
section
/-! DEFINITION. The named operations the meanings share: answering a request, raising an error and going on after it
(60_exceptions.md R160 to R165), the state conditions of a request (R164), the reset signal (70_reset_and_hazards.md R180),
and the CRC arithmetic (40_checksum.md R80 to R82, R88). The block has no memory and no register file. -/

namespace Sys2Proof.Machine

/-! ## Responses and errors -/

/-- What the meanings answer with. -/
abbrev Result := Host.Outcome State Fault Refusal

/-- The response of one request leaves the block (30_encoding.md R54). -/
def respond (code : BitVec 3) (data : Word) (events : List BusEvent) (s : State) : State :=
  { s with responses := s.responses ++ [⟨code, data, events⟩] }

/-- A request that succeeds: code 0, the data word its rule names, the events it emitted (30_encoding.md R54). -/
def succeed (data : Word) (events : List BusEvent) (s : State) : Result :=
  .next (respond 0#3 data events s)

/-- Raising an error, the block's whole exception entry (60_exceptions.md R160 to R163): the sticky bit is set, the
response carries the code, no data, and the events that stand (none, but for a CAP_BYTE whose second symbol fails), and
every other register keeps its value. There is no handler and no return (R165): the next request is accepted in this
state. -/
def raiseError (e : ErrorKind) (events : List BusEvent) (s : State) : Result :=
  .next (respond (errorCode e) 0x0000#16 events { s with block := setFlag (errorBit e) s.block })

/-- The conditions of CRC_SEED (60_exceptions.md R164, order 2). -/
def whenNotCapturing (k : State → Result) (s : State) : Result :=
  if s.block.capActive then raiseError .captureBusy [] s else k s

/-- The conditions of the CRC requests and of CAP_ENTER (60_exceptions.md R164, orders 2 and 3). -/
def whenInSession (k : State → Result) (s : State) : Result :=
  whenNotCapturing (fun s => if s.block.connected then k s else raiseError .notConnected [] s) s

/-- The condition of CAP_SYMBOL and CAP_BYTE (60_exceptions.md R164, order 4). -/
def whenCapturing (k : State → Result) (s : State) : Result :=
  if s.block.capActive then k s else raiseError .notInCapture [] s

/-- A request word that is no instruction (30_encoding.md R53, 60_exceptions.md R164, order 1). -/
def refuseRequest (s : State) : Result := raiseError .badRequest [] s

/-- The reset signal (70_reset_and_hazards.md R180): every register of the block takes its reset value. It reaches the
block only: notes/assumptions/16.md. -/
def resetSignal (s : State) : State := { s with block := Block.reset }

/-! ## CRC arithmetic -/

/-- One iteration of the loop of 40_checksum.md R80. -/
def crcBit (c : Word) : Word := if c.msb then (c <<< 1) ^^^ crcPoly else c <<< 1

/-- `k` iterations of the loop of 40_checksum.md R80. -/
def crcBits : Nat → Word → Word
  | 0, c => c
  | k + 1, c => crcBits k (crcBit c)

/-- `crc_shift(c, v, k)` (40_checksum.md R80): `v` lands in the top `k` bits, then `k` shifts. -/
def crcShift {k : Nat} (c : Word) (v : BitVec k) : Word :=
  crcBits k (c ^^^ (v.zeroExtend 16 <<< (16 - k)))

/-- The nibble table T (40_checksum.md R81). -/
def crcTable (i : Nibble) : Word :=
  match i.toNat with
  | 0x0 => 0x0000#16
  | 0x1 => 0x1021#16
  | 0x2 => 0x2042#16
  | 0x3 => 0x3063#16
  | 0x4 => 0x4084#16
  | 0x5 => 0x50A5#16
  | 0x6 => 0x60C6#16
  | 0x7 => 0x70E7#16
  | 0x8 => 0x8108#16
  | 0x9 => 0x9129#16
  | 0xA => 0xA14A#16
  | 0xB => 0xB16B#16
  | 0xC => 0xC18C#16
  | 0xD => 0xD1AD#16
  | 0xE => 0xE1CE#16
  | _ => 0xF1EF#16

/-- `crc_nib(c, n)`, the block's datapath (40_checksum.md R81). -/
def crcNib (c : Word) (n : Nibble) : Word :=
  (c <<< 4) ^^^ crcTable (c.extractLsb' 12 4 ^^^ n)

/-- The update by one byte: two nibble steps, high nibble first (40_checksum.md R82, R84). -/
def crcByte (c : Word) (b : Byte) : Word := crcNib (crcNib c (highNibble b)) (lowNibble b)

/-- `update(s, bytes)` (40_checksum.md R88): the left fold of `crc_shift` over the bytes. -/
def crcUpdate (c : Word) (bytes : List Byte) : Word := bytes.foldl (fun c b => crcShift c b) c

end Sys2Proof.Machine
end

