-- ==== Sys2Proof/Machine/Bridge.lean ====
section
/-! DEFINITION. The boundary: the host's driver, its exchanges with the bridge and the requests it issues to the block
(41_session_boundary.md R103 to R116), and the meanings of the bridge commands. A command sends its bytes and then reads its
reply; a reply that has not arrived yet leaves the read in `awaiting`, which is the blocking read of R116. -/

namespace Sys2Proof.Machine

/-! ## The driver's operations -/

/-- The driver reports a result. -/
def report (r : HostResult) (s : State) : State :=
  { s with host := { s.host with results := s.host.results ++ [r] } }

/-- The procedure in progress goes on as `t`. -/
def setTask (t : Task) (s : State) : State := { s with host := { s.host with task := t } }

/-- The procedure in progress, if any, ends with a result. -/
def finish (r : HostResult) (s : State) : State := report r (setTask .idle s)

/-- The host issues requests to the block, in order (41_session_boundary.md R103, R104, R112). -/
def issue (is : List Instr) (s : State) : State := { s with issued := s.issued ++ is.map encodeRequest }

/-- The pseudo-request CRC_UPDATE (30_encoding.md R69): one CRC_UPDATE_BYTE per byte, in order (41_session_boundary.md R103). -/
def issueCrcUpdate (bytes : List Byte) (s : State) : State := issue (Pseudo.expand (.crcUpdate bytes)) s

/-- From here on the channel carries a capture stream (41_session_boundary.md R112: "Initiated by sending 'c'"):
notes/assumptions/14.md. -/
def beginStream (s : State) : State := { s with host := { s.host with channel := .stream } }

/-- A request that the outside issues itself. A CAP_ENTER on a channel that still carries the stream of a capture that has
ended enters another capture, and the stream is none of its own (70_reset_and_hazards.md R187, 93_implementation_defined.md
I11: notes/assumptions/14.md). Any other request leaves the channel as it is. -/
def noteRequest (w : RequestWord) (s : State) : State :=
  if w = encodeRequest .capEnter ∧ s.host.channel = .stream ∧ s.block.capActive = false then
    { s with host := { s.host with channel := .oldStream } }
  else s

/-- The host closes the transport (70_reset_and_hazards.md R187): what the channel still held is gone, nothing is awaited,
no procedure goes on, and the next channel carries no stream. -/
def closeChannel (s : State) : State :=
  { s with host := { s.host with rx := [], awaiting := none, task := .idle, channel := .clear } }

/-- The host tears the session down: DISCONNECT, and the transport is closed (41_session_boundary.md R100, R101, R112, R116;
42_capture_decoder.md R141). -/
def tearDown (r : HostResult) (s : State) : State := issue [.disconnect] (report r (closeChannel s))

/-- Whether the driver is connecting (41_session_boundary.md R104). -/
def connecting (s : State) : Bool :=
  match s.host.task with
  | .connect _ => true
  | .idle => false
  | .write _ _ _ => false
  | .read _ _ => false

/-- TransportError (41_session_boundary.md R116, 60_exceptions.md R166): the session is torn down, inside a connect too:
notes/assumptions/10.md. -/
def transportFailed (s : State) : State := tearDown .transportError s

/-- A command or procedure that the driver does not begin. -/
def turnAway (r : HostResult) (s : State) : Result := .next (finish r s)

/-- No bridge command is issued in capture mode (41_session_boundary.md R114, 70_reset_and_hazards.md R183). -/
def whenChannelFree (k : State → Result) (s : State) : Result :=
  if s.block.capActive then turnAway .captureActive s else k s

/-- A channel that still carries the stream of a capture that has ended takes no command: the host "must close the transport
before any new connect" (70_reset_and_hazards.md R187), and "has no move on it but closing it" (93_implementation_defined.md
I11). -/
def whenNotAbandoned (k : State → Result) (s : State) : Result :=
  match s.host.channel with
  | .clear => k s
  | .stream => turnAway .channelAbandoned s
  | .oldStream => turnAway .channelAbandoned s

/-- The preconditions of taking a byte of the capture stream (41_session_boundary.md R112): capture mode, and a channel without
the stream of an earlier capture, on which a host "has no move" (93_implementation_defined.md I11). -/
def whenStreaming (k : State → Result) (s : State) : Result :=
  if s.block.capActive then
    match s.host.channel with
    | .clear => k s
    | .stream => k s
    | .oldStream => turnAway .channelAbandoned s
  else turnAway .notCapturing s

/-- The preconditions of a connect and of its commands, which need no session (41_session_boundary.md R104, R114). -/
def whenOpen (k : State → Result) (s : State) : Result := whenChannelFree (whenNotAbandoned k) s

/-- The preconditions of every command of R105 to R113 (41_session_boundary.md R114). -/
def whenLive (k : State → Result) (s : State) : Result :=
  whenChannelFree (fun s => if s.block.connected then whenNotAbandoned k s else turnAway .notConnected s) s

/-- `write_exact(bytes)` (41_session_boundary.md R116). -/
def writeExact (bytes : List Byte) (k : State → Result) (s : State) : Result :=
  if s.host.linkDown then .next (transportFailed s)
  else k { s with host := { s.host with tx := s.host.tx ++ bytes } }

/-! ## Reading a reply -/

/-- How far a `read_exact` gets. -/
inductive Reply where
  /-- Every byte is there; the rest of the deliveries. -/
  | done (bytes : List Byte) (rest : List Delivery)
  /-- Bytes are still missing and nothing says that they will not come. -/
  | short
  /-- The transport failed. -/
  | failed (rest : List Delivery)
  /-- The host's deadline expired. -/
  | timedOut (rest : List Delivery)
deriving DecidableEq, Repr

/-- One more byte at the front of a reply. -/
def Reply.push (b : Byte) : Reply → Reply
  | .done bytes rest => .done (b :: bytes) rest
  | .short => .short
  | .failed rest => .failed rest
  | .timedOut rest => .timedOut rest

/-- `read_exact(count)` on what the transport delivers (41_session_boundary.md R116). Without a deadline (00_scope.md R9,
`none`) no deadline expires. -/
def takeReply (hasDeadline : Bool) : Nat → List Delivery → Reply
  | 0, rx => .done [] rx
  | _ + 1, [] => .short
  | n + 1, .byte b :: rx => (takeReply hasDeadline n rx).push b
  | _ + 1, .failure :: rx => .failed rx
  | n + 1, .deadline :: rx => if hasDeadline then .timedOut rx else takeReply hasDeadline (n + 1) rx

/-- The echo of a probe (41_session_boundary.md R104): an echo that differs fails the handshake; in a connect the procedure
goes on. DESIGN CHOICE: a handshake that fails leaves the channel open, with what it still holds: notes/assumptions/30.md. -/
def echoArrived (test : Byte) (bytes : List Byte) (s : State) : State :=
  if bytes = [test] then (if connecting s then s else report .echoed s)
  else finish .handshakeFailed s

/-- A status record (41_session_boundary.md R104, R105): a connect seeds the block from it, any other query reports it. R105
calls the CRC the CRC_CHECK operand "afterwards", and no rule says who issues CRC_CHECK with it or when. DESIGN CHOICE: the
driver never issues CRC_CHECK; the outside does, as a request of its own: notes/assumptions/28.md. DESIGN CHOICE: a connect
that fails on a record leaves the channel open: notes/assumptions/30.md. -/
def statusArrived (bytes : List Byte) (s : State) : State :=
  match Config.parseStatusCrc bytes with
  | none => finish .statusParseError s
  | some v => if connecting s then issue [.crcSeed v] (finish (.session v) s) else report (.status v) s

/-- The bus levels of a status byte (41_session_boundary.md R107). -/
def busResetArrived (b : Byte) (s : State) : State := report (.levels (resetSda b) (resetScl b)) s

/-- What of a write is still to be sent, after the chunk in flight; none when the chunk is a write of its own. -/
def writeLeft : Task → List Byte
  | .write left _ _ => left
  | .idle => []
  | .connect _ => []
  | .read _ _ => []

/-- The bytes of a write sent before the chunk in flight. -/
def writeSent : Task → List Byte
  | .write _ sent _ => sent
  | .idle => []
  | .connect _ => []
  | .read _ _ => []

/-- `all_ack` before the chunk in flight (41_session_boundary.md R110: it starts true). -/
def writeAllAck : Task → Bool
  | .write _ _ allAck => allAck
  | .idle => true
  | .connect _ => true
  | .read _ _ => true

/-- The end of a write (41_session_boundary.md R110): the whole payload enters the CRC if every chunk was acknowledged, or
under WRITE_NAK_CRC_POLICY = always. -/
def finishWrite (payload : List Byte) (allAck : Bool) (s : State) : State :=
  finish (.written (if allAck then .ack else .nak))
    (if allAck || s.params.writeNakCrc == .always then issueCrcUpdate payload s else s)

/-- The ack byte of a write chunk (41_session_boundary.md R110). -/
def writeAckArrived (data : List Byte) (a : Byte) (s : State) : State :=
  match writeLeft s.host.task with
  | [] =>
    finishWrite (writeSent s.host.task ++ data) (writeAllAck s.host.task && writeAcked s.params.writeAckBit a) s
  | b :: left =>
    setTask (.write (b :: left) (writeSent s.host.task ++ data)
      (writeAllAck s.host.task && writeAcked s.params.writeAckBit a)) s

/-- How many bytes of a read are still to be asked for, after the chunk in flight. -/
def readLeft : Task → Nat
  | .read left _ => left
  | .idle => 0
  | .connect _ => 0
  | .write _ _ _ => 0

/-- The bytes of a read that came before the chunk in flight. -/
def readGot : Task → List Byte
  | .read _ got => got
  | .idle => []
  | .connect _ => []
  | .write _ _ _ => []

/-- The data of a read chunk (41_session_boundary.md R111): it enters the CRC per chunk, in arrival order. -/
def readDataArrived (bytes : List Byte) (s : State) : State :=
  match readLeft s.host.task with
  | 0 => issueCrcUpdate bytes (finish (.data (readGot s.host.task ++ bytes)) s)
  | left + 1 => issueCrcUpdate bytes (setTask (.read (left + 1) (readGot s.host.task ++ bytes)) s)

/-- A reply of one byte. -/
def oneByte (k : Byte → State → State) (bytes : List Byte) (s : State) : State :=
  match bytes with
  | [] => s
  | b :: _ => k b s

/-- What a whole reply does. -/
def replyArrived (p : Purpose) (bytes : List Byte) (s : State) : State :=
  match p with
  | .echo test => echoArrived test bytes s
  | .status => statusArrived bytes s
  | .scan => report (.scan (scanFlags bytes)) s
  | .busReset => oneByte busResetArrived bytes s
  | .startAck => oneByte (fun a s => report (.started (startAck a)) s) bytes s
  | .writeAck data => oneByte (writeAckArrived data) bytes s
  | .readData => readDataArrived bytes s
  | .captureByte => oneByte (fun b s => issue [.capByte b] s) bytes s

/-- A short or failed read (41_session_boundary.md R104: HandshakeFailed; R107: levels (0,0); R116: TransportError). -/
def readFailed (p : Purpose) (s : State) : State :=
  match p with
  | .echo _ => finish .handshakeFailed s
  | .busReset => report (.levels false false) s
  | .status | .scan | .startAck | .writeAck _ | .readData | .captureByte => transportFailed s

/-- An expired deadline (00_scope.md R9, 60_exceptions.md R166): a short read for R104 and R107, else Timeout, after which
the host may tear down: notes/assumptions/11.md. -/
def readTimedOut (p : Purpose) (s : State) : State :=
  match p with
  | .echo _ => finish .handshakeFailed s
  | .busReset => report (.levels false false) s
  | .status | .scan | .startAck | .writeAck _ | .readData | .captureByte => finish .timeout s

/-- The driver's read ends and the deliveries left are `rest`. -/
def endRead (rest : List Delivery) (s : State) : State :=
  { s with host := { s.host with rx := rest, awaiting := none } }

/-- How far the read in progress gets. -/
def replyOf (a : Await) (s : State) : Reply := takeReply s.params.timeout.isSome a.count s.host.rx

/-- Going on with the read in progress; a short one stays in progress (41_session_boundary.md R116, 70_reset_and_hazards.md R188). -/
def resumeRead (a : Await) (s : State) : State :=
  match replyOf a s with
  | .short => s
  | .done bytes rest => replyArrived a.purpose bytes (endRead rest s)
  | .failed rest => readFailed a.purpose (endRead rest s)
  | .timedOut rest => readTimedOut a.purpose (endRead rest s)

/-- `read_exact(count)` for a purpose. -/
def readExact (count : Nat) (p : Purpose) (s : State) : Result :=
  .next (resumeRead ⟨count, p⟩ { s with host := { s.host with awaiting := some ⟨count, p⟩ } })

/-- A command without a reply. -/
def noReply (s : State) : Result := .next (report .sent s)

/-! ## The bridge commands -/

/-- HOST_MONITOR_OFF (41_session_boundary.md R113). -/
def execHostMonitorOff (s : State) : Result := whenLive (writeExact [cmdMonitorOff] noReply) s

/-- HOST_MONITOR_ON (41_session_boundary.md R113). -/
def execHostMonitorOn (s : State) : Result := whenLive (writeExact [cmdMonitorOn] noReply) s

/-- HOST_STATUS (41_session_boundary.md R105; R104 and R114: the query inside connect needs no session). -/
def execHostStatus (s : State) : Result :=
  if connecting s then whenOpen (writeExact [cmdStatus] (readExact statusBytes .status)) s
  else whenLive (writeExact [cmdStatus] (readExact statusBytes .status)) s

/-- HOST_ENTER_CAPTURE (41_session_boundary.md R112). -/
def execHostEnterCapture (s : State) : Result :=
  whenLive (writeExact [cmdEnterCapture] (fun s => noReply (issue [.capEnter] (beginStream s)))) s

/-- HOST_SCAN (41_session_boundary.md R106). -/
def execHostScan (s : State) : Result := whenLive (writeExact [cmdScan] (readExact scanBytes .scan)) s

/-- HOST_ECHO_PROBE (41_session_boundary.md R104): it needs no session. -/
def execHostEchoProbe (test : Byte) (s : State) : Result :=
  whenOpen (writeExact [cmdEchoProbe, test] (readExact 1 (.echo test))) s

/-- HOST_I2C_STOP (41_session_boundary.md R109). -/
def execHostI2cStop (s : State) : Result := whenLive (writeExact [cmdI2cStop] noReply) s

/-- HOST_I2C_START (41_session_boundary.md R108). -/
def execHostI2cStart (address : BitVec 7) (dir : Direction) (s : State) : Result :=
  whenLive (writeExact [cmdI2cStart, startAddressByte address dir] (readExact 1 .startAck)) s

/-- HOST_BUS_RESET (41_session_boundary.md R107). -/
def execHostBusReset (s : State) : Result := whenLive (writeExact [cmdBusReset] (readExact 1 .busReset)) s

/-- HOST_READ_CHUNK (41_session_boundary.md R111). -/
def execHostReadChunk (nMinus1 : BitVec 6) (s : State) : Result :=
  whenLive (writeExact [readChunkByte nMinus1] (readExact (chunkLength nMinus1) .readData)) s

/-- HOST_WRITE_CHUNK (41_session_boundary.md R110). -/
def execHostWriteChunk (nMinus1 : BitVec 6) (data : List Byte) (s : State) : Result :=
  whenLive (writeExact (writeChunkByte nMinus1 :: data) (readExact 1 (.writeAck data))) s

/-! ## The host's procedures -/

/-- The next command of the procedure in progress, and the state it is sent in (41_session_boundary.md R104, R110, R111). -/
def nextCommand (s : State) : Option (Instr × State) :=
  match s.host.task with
  | .idle => none
  | .connect [] => some (.hostStatus, s)
  | .connect (t :: ts) => some (.hostEchoProbe t, setTask (.connect ts) s)
  | .write [] _ _ => none
  | .write (b :: left) sent allAck =>
    some (.hostWriteChunk (lengthFieldOf ((b :: left).take chunkMax).length) ((b :: left).take chunkMax),
      setTask (.write ((b :: left).drop chunkMax) sent allAck) s)
  | .read 0 _ => none
  | .read (left + 1) got =>
    some (.hostReadChunk (lengthFieldOf (min (left + 1) chunkMax)),
      setTask (.read (left + 1 - min (left + 1) chunkMax) got) s)

/-- A write procedure begins (41_session_boundary.md R110): an empty write sends no chunk and is acknowledged. -/
def startWrite (bytes : List Byte) (s : State) : Result :=
  match bytes with
  | [] => .next (finish (.written .ack) s)
  | b :: left => .next (setTask (.write (b :: left) [] true) s)

/-- A read procedure begins (41_session_boundary.md R111): an empty read sends nothing; under `reference` a read of more
than 64 bytes is refused by name. -/
def startRead (count : Nat) (s : State) : Result :=
  if s.params.readChunk = .reference ∧ chunkMax < count then .refused (.referenceReadChunking count)
  else
    match count with
    | 0 => .next (finish (.data []) s)
    | n + 1 => .next (setTask (.read (n + 1) []) s)

/-- A procedure of the host begins (41_session_boundary.md R104, R110 to R112, R114; 42_capture_decoder.md R141). -/
def startOp (o : HostOp) (s : State) : Result :=
  match o with
  | .connect => whenOpen (fun s => .next (setTask (.connect probeBytes) s)) s
  | .write bytes => whenLive (startWrite bytes) s
  | .read count => whenLive (startRead count) s
  | .captureRead => whenStreaming (fun s => readExact 1 .captureByte (beginStream s)) s
  | .close => .next (tearDown .closed s)

end Sys2Proof.Machine
end

