-- ==== Sys2Proof/Machine/Capture.lean ====
section
/-! DEFINITION. The Capture Decoder: the symbol step and the requests CAP_ENTER, CAP_SYMBOL, CAP_BYTE
(42_capture_decoder.md R130 to R140), and the symbols as instructions of their own. -/

namespace Sys2Proof.Machine

/-! ## The symbol step: `step(state, symbol) -> (state, Option<BusEvent>)`, or an error -/

/-- What one symbol does to the block. -/
abbrev SymbolResult := Except ErrorKind (Block × Option BusEvent)

/-- Symbol 0 (42_capture_decoder.md R132). -/
def stepIdle (b : Block) : SymbolResult := .ok (b, none)

/-- Symbol 1 (42_capture_decoder.md R133). -/
def stepStart (b : Block) : SymbolResult := .ok ({ b with pendingStart := true }, none)

/-- Symbol 2 (42_capture_decoder.md R134). -/
def stepStop (b : Block) : SymbolResult := .ok ({ b with pendingStart := true }, some .stop)

/-- Symbols 3 to 7 (42_capture_decoder.md R135, 00_scope.md R6). -/
def stepReserved (p : ReservedSymbolPolicy) (b : Block) : SymbolResult :=
  match p with
  | .fault => .error .reservedSymbol
  | .ignore => .ok (b, none)

/-- `complete_group()` (42_capture_decoder.md R137 to R139). -/
def completeGroup (b : Block) : Block × Option BusEvent :=
  if b.pendingStart then
    ({ b with pendingStart := false, accValue := 0#9, accCount := 0#4 }, some (startEvent b.accValue))
  else
    ({ b with accValue := 0#9, accCount := 0#4 }, some (byteEvent b.accValue))

/-- The accumulator after three more bits (42_capture_decoder.md R136). -/
def appendBits (d : BitVec 3) (b : Block) : Block :=
  { b with accValue := (b.accValue <<< 3) ||| d.zeroExtend 9, accCount := b.accCount + 3#4 }

/-- Symbols 8 to 15 (42_capture_decoder.md R136). -/
def stepData (d : BitVec 3) (b : Block) : SymbolResult :=
  if (appendBits d b).accCount = 9#4 then .ok (completeGroup (appendBits d b))
  else .ok (appendBits d b, none)

/-- `step(s)` (42_capture_decoder.md R131; 30_encoding.md R55 for the classes). -/
def symbolStep (p : ReservedSymbolPolicy) (sym : Nibble) (b : Block) : SymbolResult :=
  if sym.getLsbD 3 then stepData (symbolData sym) b
  else match sym.toNat with
    | 0 => stepIdle b
    | 1 => stepStart b
    | 2 => stepStop b
    | _ => stepReserved p b

/-- A request that is one symbol step: the step's effect and event, or its error (42_capture_decoder.md R131). -/
def answerSymbol (r : SymbolResult) (s : State) : Result :=
  match r with
  | .ok (b, ev) => succeed 0x0000#16 ev.toList { s with block := b }
  | .error e => raiseError e [] s

/-! ## Requests -/

/-- CAP_ENTER (42_capture_decoder.md R130). -/
def execCapEnter (s : State) : Result :=
  whenInSession (fun s => succeed 0x0000#16 []
    { s with block := { s.block with capActive := true, pendingStart := false, accValue := 0#9, accCount := 0#4 } }) s

/-- CAP_SYMBOL (42_capture_decoder.md R131). -/
def execCapSymbol (sym : Nibble) (s : State) : Result :=
  whenCapturing (fun s => answerSymbol (symbolStep s.params.reservedSymbol sym s.block) s) s

/-- CAP_BYTE (42_capture_decoder.md R140): the high symbol, then the low one; an error of the low one keeps the effects and
the event of the high one (60_exceptions.md R163). -/
def execCapByte (b : Byte) (s : State) : Result :=
  whenCapturing (fun s =>
    match symbolStep s.params.reservedSymbol (highNibble b) s.block with
    | .error e => raiseError e [] s
    | .ok (b1, ev1) =>
      match symbolStep s.params.reservedSymbol (lowNibble b) b1 with
      | .error e => raiseError e ev1.toList { s with block := b1 }
      | .ok (b2, ev2) => succeed 0x0000#16 (ev1.toList ++ ev2.toList) { s with block := b2 }) s

/-! ## Symbols as instructions

A symbol reaches the decoder only through a request that capture mode admits (42_capture_decoder.md R131), so a symbol on
its own is CAP_SYMBOL of that symbol: notes/assumptions/3.md. -/

/-- SYM_IDLE (42_capture_decoder.md R132). -/
def execSymIdle (s : State) : Result :=
  whenCapturing (fun s => answerSymbol (stepIdle s.block) s) s

/-- SYM_START (42_capture_decoder.md R133). -/
def execSymStart (s : State) : Result :=
  whenCapturing (fun s => answerSymbol (stepStart s.block) s) s

/-- SYM_STOP (42_capture_decoder.md R134). -/
def execSymStop (s : State) : Result :=
  whenCapturing (fun s => answerSymbol (stepStop s.block) s) s

/-- SYM_RESERVED_3 (42_capture_decoder.md R135). -/
def execSymReserved3 (s : State) : Result :=
  whenCapturing (fun s => answerSymbol (stepReserved s.params.reservedSymbol s.block) s) s

/-- SYM_RESERVED_4_7 (42_capture_decoder.md R135): the two low bits select the symbol and change nothing. -/
def execSymReserved4To7 (_low : BitVec 2) (s : State) : Result :=
  whenCapturing (fun s => answerSymbol (stepReserved s.params.reservedSymbol s.block) s) s

/-- SYM_DATA (42_capture_decoder.md R136 to R139). -/
def execSymData (d : BitVec 3) (s : State) : Result :=
  whenCapturing (fun s => answerSymbol (stepData d s.block) s) s

end Sys2Proof.Machine
end

