-- ==== Sys2Proof/Machine/Checksum.lean ====
section
/-! DEFINITION. The Checksum Engine's requests (40_checksum.md R83 to R87). -/

namespace Sys2Proof.Machine

/-- CRC_SEED (40_checksum.md R83). -/
def execCrcSeed (v : Word) (s : State) : Result :=
  whenNotCapturing (fun s => succeed 0x0000#16 [] { s with block := { s.block with crc := v, connected := true } }) s

/-- CRC_UPDATE_BYTE (40_checksum.md R84). -/
def execCrcUpdateByte (b : Byte) (s : State) : Result :=
  whenInSession (fun s => succeed 0x0000#16 [] { s with block := { s.block with crc := crcByte s.block.crc b } }) s

/-- CRC_UPDATE_NIBBLE (40_checksum.md R85). -/
def execCrcUpdateNibble (n : Nibble) (s : State) : Result :=
  whenInSession (fun s => succeed 0x0000#16 [] { s with block := { s.block with crc := crcNib s.block.crc n } }) s

/-- CRC_READ (40_checksum.md R86). -/
def execCrcRead (s : State) : Result :=
  whenInSession (fun s => succeed s.block.crc [] s) s

/-- CRC_CHECK (40_checksum.md R87): a mismatch is a warning with code 0. -/
def execCrcCheck (v : Word) (s : State) : Result :=
  whenInSession (fun s =>
    if s.block.crc = v then succeed 0x0001#16 [] s
    else succeed 0x0000#16 [] { s with block := setFlag mismatchBit s.block }) s

end Sys2Proof.Machine
end

