-- ==== Sys2Proof/Machine/Session.lean ====
section
/-! DEFINITION. The session's requests (41_session_boundary.md R101, R102) and the reserved operation codes
(30_encoding.md R53). -/

namespace Sys2Proof.Machine

/-- DISCONNECT (41_session_boundary.md R101): accepted in every state, `err_flags` kept, no event. -/
def execDisconnect (s : State) : Result :=
  succeed 0x0000#16 []
    { s with block :=
      { crc := 0x0000#16, connected := false, capActive := false, pendingStart := false, accValue := 0#9, accCount := 0#4,
        errFlags := s.block.errFlags } }

/-- ERR_READ (41_session_boundary.md R102): accepted in every state, clears nothing. -/
def execErrRead (s : State) : Result :=
  succeed (s.block.errFlags.zeroExtend 16) [] s

/-! A reserved `op` is refused with code 1 whatever its operand (30_encoding.md R53). -/

/-- RESERVED_OP_0 (30_encoding.md R53). -/
def execReservedOp0 (_operand : Word) (s : State) : Result := refuseRequest s

/-- RESERVED_OP_B (30_encoding.md R53). -/
def execReservedOpB (_operand : Word) (s : State) : Result := refuseRequest s

/-- RESERVED_OP_C (30_encoding.md R53). -/
def execReservedOpC (_operand : Word) (s : State) : Result := refuseRequest s

/-- RESERVED_OP_D (30_encoding.md R53). -/
def execReservedOpD (_operand : Word) (s : State) : Result := refuseRequest s

/-- RESERVED_OP_E (30_encoding.md R53). -/
def execReservedOpE (_operand : Word) (s : State) : Result := refuseRequest s

/-- RESERVED_OP_F (30_encoding.md R53). -/
def execReservedOpF (_operand : Word) (s : State) : Result := refuseRequest s

end Sys2Proof.Machine
end

