-- ==== Sys2Proof/Machine/Dispatch.lean ====
section
/-! DEFINITION. One arm per constructor of Instr: the meaning of each row of spec/opcode_table.json. -/

namespace Sys2Proof.Machine

def exec (i : Instr) (s : State) : Host.Outcome State Fault Refusal :=
  match i with
  -- requests
  | .crcSeed v => Sys2Proof.Machine.execCrcSeed v s
  | .crcUpdateByte b => Sys2Proof.Machine.execCrcUpdateByte b s
  | .crcUpdateNibble n => Sys2Proof.Machine.execCrcUpdateNibble n s
  | .crcRead => Sys2Proof.Machine.execCrcRead s
  | .crcCheck v => Sys2Proof.Machine.execCrcCheck v s
  | .capEnter => Sys2Proof.Machine.execCapEnter s
  | .capSymbol sym => Sys2Proof.Machine.execCapSymbol sym s
  | .capByte b => Sys2Proof.Machine.execCapByte b s
  | .disconnect => Sys2Proof.Machine.execDisconnect s
  | .errRead => Sys2Proof.Machine.execErrRead s
  -- reserved operation codes
  | .reservedOp0 operand => Sys2Proof.Machine.execReservedOp0 operand s
  | .reservedOpB operand => Sys2Proof.Machine.execReservedOpB operand s
  | .reservedOpC operand => Sys2Proof.Machine.execReservedOpC operand s
  | .reservedOpD operand => Sys2Proof.Machine.execReservedOpD operand s
  | .reservedOpE operand => Sys2Proof.Machine.execReservedOpE operand s
  | .reservedOpF operand => Sys2Proof.Machine.execReservedOpF operand s
  -- capture symbols
  | .symIdle => Sys2Proof.Machine.execSymIdle s
  | .symStart => Sys2Proof.Machine.execSymStart s
  | .symStop => Sys2Proof.Machine.execSymStop s
  | .symReserved3 => Sys2Proof.Machine.execSymReserved3 s
  | .symReserved4To7 low => Sys2Proof.Machine.execSymReserved4To7 low s
  | .symData d => Sys2Proof.Machine.execSymData d s
  -- bridge commands
  | .hostMonitorOff => Sys2Proof.Machine.execHostMonitorOff s
  | .hostStatus => Sys2Proof.Machine.execHostStatus s
  | .hostEnterCapture => Sys2Proof.Machine.execHostEnterCapture s
  | .hostScan => Sys2Proof.Machine.execHostScan s
  | .hostEchoProbe test => Sys2Proof.Machine.execHostEchoProbe test s
  | .hostMonitorOn => Sys2Proof.Machine.execHostMonitorOn s
  | .hostI2cStop => Sys2Proof.Machine.execHostI2cStop s
  | .hostI2cStart address dir => Sys2Proof.Machine.execHostI2cStart address dir s
  | .hostBusReset => Sys2Proof.Machine.execHostBusReset s
  | .hostReadChunk nMinus1 => Sys2Proof.Machine.execHostReadChunk nMinus1 s
  | .hostWriteChunk nMinus1 data => Sys2Proof.Machine.execHostWriteChunk nMinus1 data s

end Sys2Proof.Machine
end

