-- ==== Sys2Proof/Machine/Fetch.lean ====
section
/-! DEFINITION. What a step does next: the read in progress, a request the driver issued, the next command of the procedure
in progress, or the next input, in this order (notes/assumptions/26.md). -/

namespace Sys2Proof.Machine

/-- What a step has to do. -/
inductive Fetched where
  /-- Run this instruction in this state. -/
  | run (i : Instr) (s : State)
  /-- The step is over: no instruction runs in it. -/
  | done (o : Result)

/-- A request word: its instruction, or BAD_REQUEST (30_encoding.md R53, 60_exceptions.md R164). -/
def fetchRequest (w : RequestWord) (s : State) : Fetched :=
  match decodeRequest w with
  | .ok i => .run i s
  | .error _ => .done (refuseRequest s)

/-- The bytes after a command are the host's next command. -/
def pushBack (rest : List Byte) (s : State) : State :=
  match rest with
  | [] => s
  | b :: bs => { s with inputs := .code (.command (b :: bs)) :: s.inputs }

/-- A bridge command's bytes: its instruction, or a refusal by name (30_encoding.md R62). -/
def fetchCommand (bytes : List Byte) (s : State) : Fetched :=
  match decodeCommand bytes with
  | .ok (i, rest) => .run i (pushBack rest s)
  | .error (.notACommand b) => .done (.refused (.unknownCommand b))
  | .error (.truncated cmd) => .done (.refused (.truncatedCommand cmd))
  | .error .noCommand => .done (.next s)
  | .error (.mustBeZero _) => .done (.next s)

/-- One input, already taken off the list. DESIGN CHOICE: the exit of the host's process only tears the session down; the block
keeps `err_flags`, the lists stay, the next input is taken as before, and no process start is part of it:
notes/assumptions/31.md. -/
def fetchInput (x : Input) (s : State) : Fetched :=
  match x with
  | .code (.request w) => fetchRequest w (noteRequest w s)
  | .code (.symbol n) => .run (decodeSymbol n) s
  | .code (.command bytes) => fetchCommand bytes s
  | .op o => .done (startOp o s)
  | .reset => .done (.next (resetSignal s))
  | .exit => .done (.next (tearDown .closed s))

/-- A step while a read is in progress (41_session_boundary.md R116). A read that stays short waits, but the reset signal
still reaches the block (70_reset_and_hazards.md R180), the exit of the host's process still ends the session and with it the
read (41_session_boundary.md R100), and a capture is still cancelled by a close (42_capture_decoder.md R141). DESIGN CHOICE:
during any other read a close, which the blocked thread would have to ask for itself, stays queued: notes/assumptions/29.md. -/
def waitStep (a : Await) (s : State) : State :=
  match replyOf a s with
  | .short =>
    match s.inputs with
    | .reset :: rest => resetSignal { s with inputs := rest }
    | .exit :: rest => tearDown .closed { s with inputs := rest }
    | .op .close :: rest => if a.purpose = .captureByte then tearDown .closed { s with inputs := rest } else s
    | _ => s
  | .done _ _ => resumeRead a s
  | .failed _ => resumeRead a s
  | .timedOut _ => resumeRead a s

/-- What the next step does. Without anything to do the machine stays as it is (notes/assumptions/1.md). -/
def fetch (s : State) : Fetched :=
  match s.host.awaiting with
  | some a => .done (.next (waitStep a s))
  | none =>
    match s.issued with
    | w :: ws => fetchRequest w { s with issued := ws }
    | [] =>
      match nextCommand s with
      | some (i, s') => .run i s'
      | none =>
        match s.inputs with
        | [] => .done (.next s)
        | x :: xs => fetchInput x { s with inputs := xs }

end Sys2Proof.Machine
end

