-- ==== Sys2Proof/Machine/Step.lean ====
section
/-! DEFINITION. One step of the machine, and the placing of one instruction. -/

namespace Sys2Proof.Machine

/-- One step: one request answered, one command of the host sent, or one move of the driver. -/
def step (s : State) : Host.Outcome State Fault Refusal :=
  match fetch s with
  | .run i s' => exec i s'
  | .done o => o

/-- `s` with the instruction of an opcode-table word as the very next thing the machine does: it is put before every other
input, and the driver's read, issued requests and procedure, which would come before it, are dropped
(notes/assumptions/1.md). -/
def State.withFetchWord (s : State) (nbits w : Nat) : State :=
  match tableEncoding nbits w with
  | none => s
  | some e =>
    { s with
      inputs := .code e :: s.inputs
      issued := []
      host := { s.host with awaiting := none, task := .idle } }

end Sys2Proof.Machine
end

