-- ==== Sys2Proof/Machine/Assembler.lean ====
section
/-! DEFINITION. The spec's assembler syntax (30_encoding.md R69): one request a line, the mnemonic, then the operand if the
form has one, as a hexadecimal or decimal number or a quoted ASCII character; text after a semicolon is a comment; the
pseudo-requests and their expansions. A line is a list of characters. Conventions the rule leaves open:
notes/assumptions/20.md. -/

namespace Sys2Proof.Machine

/-- A word of a line, a quoted character, or a comma. -/
inductive Token where
  | word (cs : List Char)
  | quoted (c : Char)
  | comma
deriving DecidableEq, Repr

/-- The quotation mark of a quoted character. -/
def isQuote (c : Char) : Bool := c.toNat == 39

/-- The token that the characters read so far make, if any. -/
def flush (acc : List Char) : List Token :=
  match acc with
  | [] => []
  | c :: cs => [.word (c :: cs)]

/-- The tokens of a line; `acc` holds the characters of the word being read. -/
def lexLine (acc : List Char) : List Char → List Token
  | a :: b :: c :: rest =>
    if isQuote a && isQuote c then flush acc ++ .quoted b :: lexLine [] rest
    else if a = ';' then flush acc
    else if a = ',' then flush acc ++ .comma :: lexLine [] (b :: c :: rest)
    else if a.isWhitespace then flush acc ++ lexLine [] (b :: c :: rest)
    else lexLine (acc ++ [a]) (b :: c :: rest)
  | a :: rest =>
    if a = ';' then flush acc
    else if a = ',' then flush acc ++ .comma :: lexLine [] rest
    else if a.isWhitespace then flush acc ++ lexLine [] rest
    else lexLine (acc ++ [a]) rest
  | [] => flush acc

/-- The value of a digit in a base. -/
def digitValue (base : Nat) (c : Char) : Option Nat :=
  let d :=
    if '0'.toNat ≤ c.toNat ∧ c.toNat ≤ '9'.toNat then c.toNat - '0'.toNat
    else if 'a'.toNat ≤ c.toNat ∧ c.toNat ≤ 'f'.toNat then c.toNat - 'a'.toNat + 10
    else if 'A'.toNat ≤ c.toNat ∧ c.toNat ≤ 'F'.toNat then c.toNat - 'A'.toNat + 10
    else base
  if d < base then some d else none

/-- The number that digits write, most significant first, after the value `n` of the digits before them. -/
def digitsValue (base : Nat) (n : Nat) : List Char → Option Nat
  | [] => some n
  | c :: cs =>
    match digitValue base c with
    | some d => digitsValue base (n * base + d) cs
    | none => none

/-- The value of an operand token (30_encoding.md R69; 00_scope.md R10 for the prefix 0x). -/
def tokenValue : Token → Option Nat
  | .quoted c => if c.toNat < 128 then some c.toNat else none
  | .comma => none
  | .word ('0' :: 'x' :: c :: cs) => digitsValue 16 0 (c :: cs)
  | .word cs => digitsValue 10 0 cs

/-- The operands of a line, separated by commas. -/
def operandList : List Token → Option (List Nat)
  | [] => some []
  | [t] => (tokenValue t).map ([·])
  | t :: .comma :: u :: rest =>
    match tokenValue t, operandList (u :: rest) with
    | some x, some xs => some (x :: xs)
    | _, _ => none
  | _ => none

/-- The operation codes of the mnemonics with an operand (30_encoding.md R51). -/
def withOperand : List (List Char × Nibble) :=
  [("CRC_SEED".toList, opCrcSeed),
   ("CRC_UPDATE_BYTE".toList, opCrcUpdateByte),
   ("CRC_UPDATE_NIBBLE".toList, opCrcUpdateNibble),
   ("CRC_CHECK".toList, opCrcCheck),
   ("CAP_SYMBOL".toList, opCapSymbol),
   ("CAP_BYTE".toList, opCapByte)]

/-- The operation codes of the mnemonics without an operand (30_encoding.md R51). -/
def withoutOperand : List (List Char × Nibble) :=
  [("CRC_READ".toList, opCrcRead),
   ("CAP_ENTER".toList, opCapEnter),
   ("DISCONNECT".toList, opDisconnect),
   ("ERR_READ".toList, opErrRead)]

/-- Operands that are bytes. -/
def byteOperands (xs : List Nat) : Option (List Byte) :=
  if xs.all (· < 256) then some (xs.map (BitVec.ofNat 8)) else none

/-- A pseudo-request of a line (30_encoding.md R69). -/
def pseudoOf (mnemonic : List Char) (operands : List Nat) : Option Pseudo :=
  if mnemonic = "CONNECT".toList then
    match operands with
    | [x] => if x < 2 ^ 16 then some (.connect (BitVec.ofNat 16 x)) else none
    | _ => none
  else if mnemonic = "CRC_UPDATE".toList then (byteOperands operands).map .crcUpdate
  else if mnemonic = "CAP_STREAM".toList then (byteOperands operands).map .capStream
  else if mnemonic = "CAP_CANCEL".toList then
    match operands with
    | [] => some .capCancel
    | _ => none
  else none

/-- The request words of a mnemonic with its operands: `{op, zext_16(x)}`, or a pseudo-request's expansion (30_encoding.md R69). -/
def assembleRequest (mnemonic : List Char) (operands : List Nat) : Option (List RequestWord) :=
  match withOperand.lookup mnemonic, withoutOperand.lookup mnemonic with
  | some op, _ =>
    match operands with
    | [x] => if x < 2 ^ 16 then some [requestWord op (BitVec.ofNat 16 x)] else none
    | _ => none
  | none, some op =>
    match operands with
    | [] => some [requestWord op 0#16]
    | _ => none
  | none, none => (pseudoOf mnemonic operands).map (fun p => p.expand.map encodeRequest)

/-- The request words of a line (30_encoding.md R69); a line with nothing but a comment has none. -/
def assembleLine (line : List Char) : Option (List RequestWord) :=
  match lexLine [] line with
  | [] => some []
  | .word mnemonic :: rest => (operandList rest).bind (assembleRequest mnemonic)
  | _ => none

/-- The request words of a program, line by line. -/
def assemble : List (List Char) → Option (List RequestWord)
  | [] => some []
  | line :: lines =>
    match assembleLine line, assemble lines with
    | some ws, some more => some (ws ++ more)
    | _, _ => none

end Sys2Proof.Machine
end

