-- ==== Sys2Proof/Safety.lean ====
section
/-! DEFINITION. What a safe run is, in the terms the statements use: the invariants of 10_state.md R25 to R28 and of
41_session_boundary.md R101, and a run in which the block recorded no error. -/

namespace Sys2Proof.Machine

/-- The counts that a state between requests can hold (10_state.md R26). -/
def accCounts : List (BitVec 4) := [0#4, 3#4, 6#4]

/-- The invariants of the block. -/
structure Block.Inv (b : Block) : Prop where
  /-- 10_state.md R28 (a). -/
  capture_needs_session : b.capActive = true → b.connected = true
  /-- 10_state.md R28 (b). -/
  decoder_clear_outside_capture :
    b.capActive = false → b.pendingStart = false ∧ b.accValue = 0#9 ∧ b.accCount = 0#4
  /-- Only CRC_SEED opens a session (10_state.md R22), and reset and DISCONNECT zero `crc` (10_state.md R30,
  41_session_boundary.md R101: without a session DISCONNECT "changes nothing"). -/
  crc_zero_without_session : b.connected = false → b.crc = 0x0000#16
  /-- 10_state.md R26. -/
  count_reachable : b.accCount ∈ accCounts
  /-- 10_state.md R25. -/
  value_fits_count : b.accValue.toNat < 2 ^ b.accCount.toNat
  /-- 10_state.md R27: bits 7:6 are never set. -/
  reserved_flags_zero : b.errFlags.extractLsb' 6 2 = 0#2

/-- The invariants of the machine are those of its block. -/
def State.Inv (s : State) : Prop := s.block.Inv

/-- No error and no warning is recorded (10_state.md R27, 92_eei_decisions.md D11: "no fault recorded"). -/
def State.NoErrorRecorded (s : State) : Prop := s.block.errFlags = 0#8

/-- The driver has nothing in progress, so a step takes the next input. -/
def State.Quiet (s : State) : Prop := s.host.awaiting = none ∧ s.issued = [] ∧ s.host.task = .idle

end Sys2Proof.Machine
end

