-- ==== Sys2Proof/Certificates/Slice0/Obligations.lean ====
section
/-! DEFINITION. The statements for the provers, each def Obligations.<Name> : Prop, and the small vocabulary they are written
in. A next state is written out as the state before with the fields that change, so that a result statement is also the
frame: every register, list and field it does not name is unchanged. -/

namespace Sys2Proof.Claims

open Sys2Proof.Machine

/-! ## Vocabulary -/

/-- A request succeeded: the block is now `b`, and one response with code 0 was given (30_encoding.md R54). -/
def answered (s : State) (b : Block) (data : Word) (events : List BusEvent) : State :=
  { s with block := b, responses := s.responses ++ [⟨0#3, data, events⟩] }

/-- A request ended with an error: the flag of `mask` is set in `err_flags`, one response carries the code, and nothing
else changes (60_exceptions.md R162, R163). -/
def errored (s : State) (code : BitVec 3) (mask : Byte) : State :=
  { s with
    block := { s.block with errFlags := s.block.errFlags ||| mask }
    responses := s.responses ++ [⟨code, 0x0000#16, []⟩] }

/-- The block with a clean decoder and no session, `err_flags` kept (41_session_boundary.md R101). -/
def disconnected (b : Block) : Block :=
  { crc := 0x0000#16, connected := false, capActive := false, pendingStart := false, accValue := 0#9, accCount := 0#4,
    errFlags := b.errFlags }

/-- A capture symbol with no meaning: 3 to 7 (30_encoding.md R56). -/
def reservedSymbol (n : Nibble) : Bool := 3 ≤ n.toNat && n.toNat ≤ 7

/-- The request words that are illegal (30_encoding.md R53), read off the operand forms of R51 and R52. -/
def illegalWord (w : RequestWord) : Bool :=
  let op := (w.extractLsb' 16 4).toNat
  let x := w.extractLsb' 0 16
  op == 0 || 0xB ≤ op
    || ((op == 0x2 || op == 0x8) && x.extractLsb' 8 8 != 0#8)
    || ((op == 0x3 || op == 0x7) && x.extractLsb' 4 12 != 0#12)
    || ((op == 0x4 || op == 0x6 || op == 0x9 || op == 0xA) && x != 0#16)

/-- The rows that act on the block: requests, reserved operation codes, symbols. -/
def onBlock : Instr → Bool
  | .crcSeed _ | .crcUpdateByte _ | .crcUpdateNibble _ | .crcRead | .crcCheck _ | .capEnter | .capSymbol _ | .capByte _
  | .disconnect | .errRead | .reservedOp0 _ | .reservedOpB _ | .reservedOpC _ | .reservedOpD _ | .reservedOpE _
  | .reservedOpF _ | .symIdle | .symStart | .symStop | .symReserved3 | .symReserved4To7 _ | .symData _ => true
  | .hostMonitorOff | .hostStatus | .hostEnterCapture | .hostScan | .hostEchoProbe _ | .hostMonitorOn | .hostI2cStop
  | .hostI2cStart _ _ | .hostBusReset | .hostReadChunk _ | .hostWriteChunk _ _ => false

/-- The commands of 41_session_boundary.md R105 to R113, which need a session (R114). -/
def needsSession : Instr → Bool
  | .hostMonitorOff | .hostStatus | .hostEnterCapture | .hostScan | .hostMonitorOn | .hostI2cStop | .hostI2cStart _ _
  | .hostBusReset | .hostReadChunk _ | .hostWriteChunk _ _ => true
  | .hostEchoProbe _ | .crcSeed _ | .crcUpdateByte _ | .crcUpdateNibble _ | .crcRead | .crcCheck _ | .capEnter
  | .capSymbol _ | .capByte _ | .disconnect | .errRead | .reservedOp0 _ | .reservedOpB _ | .reservedOpC _
  | .reservedOpD _ | .reservedOpE _ | .reservedOpF _ | .symIdle | .symStart | .symStop | .symReserved3
  | .symReserved4To7 _ | .symData _ => false

/-- The host can send a command: a session, no capture, a channel that carries no stream and takes bytes. -/
def Live (s : State) : Prop :=
  s.block.connected = true ∧ s.block.capActive = false ∧ s.host.channel = .clear ∧ s.host.linkDown = false

/-- The state conditions under which the host may send a command at all: a session, but for a probe and for the status query
inside connect (41_session_boundary.md R104, R114). -/
def mayBeSent (i : Instr) (s : State) : Prop :=
  needsSession i = true → s.block.connected = true ∨ (i = .hostStatus ∧ connecting s = true)

/-- A command or a procedure that the driver turns away: the procedure in progress ends, a result is reported, and nothing
else changes (notes/assumptions/8.md). -/
def turnedAway (s : State) (r : HostResult) : State :=
  { s with host := { s.host with task := .idle, results := s.host.results ++ [r] } }

/-- The state in which a request of the outside runs: a CAP_ENTER on the channel of a capture that has ended leaves the
stream there to that capture (notes/assumptions/14.md), and nothing else is changed. -/
def asked (i : Instr) (s : State) : State :=
  { s with
    host :=
      { s.host with
        channel :=
          if i = .capEnter ∧ s.host.channel = .stream ∧ s.block.capActive = false then .oldStream
          else s.host.channel } }

/-- The same state with more deliveries behind those of the channel. -/
def withMore (more : List Delivery) (s : State) : State :=
  { s with host := { s.host with rx := s.host.rx ++ more } }

/-- The bridge command bytes (30_encoding.md R62). -/
def isCommand (b : Byte) : Bool :=
  [0x20#8, 0x3F#8, 0x63#8, 0x64#8, 0x65#8, 0x6D#8, 0x70#8, 0x73#8, 0x78#8].contains b || 0x80 ≤ b.toNat

/-- How many further bytes the host sends after a command byte (30_encoding.md R62). -/
def furtherCount (b : Byte) : Nat :=
  if 0xC0 ≤ b.toNat then b.toNat - 0xBF else if b = 0x65#8 ∨ b = 0x73#8 then 1 else 0

/-- What the transport holds when these bytes have come. -/
def delivered (bytes : List Byte) (rest : List Delivery) : List Delivery := bytes.map .byte ++ rest

/-- An exchange with the bridge: `sent` went out, the reply was read and `rest` is left, the procedure goes on as `task`,
the host reports `results`, and these request words are issued to the block. -/
def exchanged (s : State) (sent : List Byte) (rest : List Delivery) (task : Task) (results : List HostResult)
    (words : List RequestWord) : State :=
  { s with
    issued := s.issued ++ words
    host :=
      { s.host with
        tx := s.host.tx ++ sent, rx := rest, awaiting := none, task := task, results := s.host.results ++ results } }

/-- The request words of CRC_UPDATE_BYTE for these bytes, `0x200bb` (40_checksum.md R84). -/
def updateWords (bytes : List Byte) : List RequestWord := bytes.map (fun b => 0x200#12 ++ b)

/-- The session is torn down after an error of the transport (41_session_boundary.md R116). -/
def tornDown (s : State) : State :=
  { s with
    issued := s.issued ++ [0x90000#20]
    host :=
      { s.host with
        rx := [], channel := .clear, awaiting := none, task := .idle
        results := s.host.results ++ [.transportError] } }

/-- The bytes of a write in `k` chunks (41_session_boundary.md R110). -/
def writeFrames : Nat → List Byte → List Byte
  | 0, _ => []
  | k + 1, bytes =>
    (0xC0#8 + BitVec.ofNat 8 (min 64 bytes.length - 1)) :: bytes.take 64 ++ writeFrames k (bytes.drop 64)

/-- The commands of a read of `count` bytes in `k` chunks (41_session_boundary.md R111). -/
def readCommands : Nat → Nat → List Byte
  | 0, _ => []
  | k + 1, count => (0x80#8 + BitVec.ofNat 8 (min count 64 - 1)) :: readCommands k (count - 64)

/-- The request words of CAP_SYMBOL for these symbols, `0x7000s` (42_capture_decoder.md R131), as inputs. -/
def symbolInputs (symbols : List Nibble) : List Input := symbols.map (fun n => .code (.request (0x7000#16 ++ n)))

/-- The events of some responses, in order (42_capture_decoder.md R142). -/
def eventsOf (rs : List Response) : List BusEvent := rs.flatMap (·.events)

/-- Whether an event is a Stop. -/
def isStop : BusEvent → Bool
  | .stop => true
  | .start _ _ _ => false
  | .byte _ _ => false

/-- The event of a 9-bit group (30_encoding.md R59, R60): its fields read straight from the group's bits. -/
def groupEvent (addressPhase : Bool) (g : BitVec 9) : BusEvent :=
  if addressPhase then
    .start (g.extractLsb' 2 7) (if g.getLsbD 1 then .read else .write) (if g.getLsbD 0 then .nak else .ack)
  else .byte (g.extractLsb' 1 8) (if g.getLsbD 0 then .nak else .ack)

/-- The same state with another CRC value. -/
def withCrc (c : Word) (s : State) : State := { s with block := { s.block with crc := c } }

end Sys2Proof.Claims

open Sys2Proof Sys2Proof.Machine Sys2Proof.Claims

/-! ## Encoding and stepping -/

/-- Decoding undoes encoding, for every well-formed instruction, whatever follows a command's bytes
(30_encoding.md R51, R52, R55, R62 to R64). -/
def Obligations.DecodeUndoesEncode : Prop :=
  ∀ i : Instr, i.WellFormed = true →
    match encode i with
    | .request w => decode (.request w) = .ok (i, [])
    | .symbol n => decode (.symbol n) = .ok (i, [])
    | .command bytes => ∀ rest, decode (.command (bytes ++ rest)) = .ok (i, rest)

/-- Encoding undoes decoding: no bit of a word or byte is ignored, and what decodes is well-formed. -/
def Obligations.EncodeUndoesDecode : Prop :=
  (∀ w i, decodeRequest w = .ok i → encode i = .request w) ∧
  (∀ n, encode (decodeSymbol n) = .symbol n) ∧
  (∀ bytes i rest, decodeCommand bytes = .ok (i, rest) →
    i.WellFormed = true ∧ ∃ head, encode i = .command head ∧ bytes = head ++ rest)

/-- A few words of the spec's tables decode to the instructions they stand for (sanity). -/
def Obligations.WrittenOutWordsDecode : Prop :=
  decodeRequest 0x11D0F#20 = .ok (.crcSeed 0x1D0F#16) ∧
  decodeRequest 0x20041#20 = .ok (.crcUpdateByte 0x41#8) ∧
  decodeRequest 0x90000#20 = .ok .disconnect ∧
  decodeSymbol 0b1101#4 = .symData 0b101#3 ∧
  decodeCommand [0x73#8, 0xA1#8] = .ok (.hostI2cStart 0x50#7 .read, []) ∧
  decodeCommand [0xC1#8, 0x41#8, 0x42#8, 0x3F#8] = .ok (.hostWriteChunk 1#6 [0x41#8, 0x42#8], [0x3F#8])

/-- When a word, a symbol or a command that decodes is next, `step` is `exec` of its instruction, with that item taken off
its list, and a command byte outside the table, or a command without its further bytes, is refused by name
(30_encoding.md R62). The list of inputs, a bare symbol as an input, the refusal of missing bytes, and the order of issued
requests, procedure and inputs are the model's choices, and so is what an outside CAP_ENTER does to the mark of the channel:
notes/assumptions/1.md, 3.md, 5.md, 14.md, 26.md. -/
def Obligations.StepRunsTheDecodedInstruction : Prop :=
  ∀ s : State, s.host.awaiting = none →
    (∀ w ws i, s.issued = w :: ws → decodeRequest w = .ok i → step s = exec i { s with issued := ws }) ∧
    (s.issued = [] →
      (∀ i s', nextCommand s = some (i, s') → step s = exec i s') ∧
      (s.host.task = .idle →
        (∀ w rest i, s.inputs = .code (.request w) :: rest → decodeRequest w = .ok i →
          step s = exec i (asked i { s with inputs := rest })) ∧
        (∀ n rest, s.inputs = .code (.symbol n) :: rest → step s = exec (decodeSymbol n) { s with inputs := rest }) ∧
        (∀ bytes i more rest, s.inputs = .code (.command bytes) :: rest → decodeCommand bytes = .ok (i, more) →
          step s = exec i
            { s with inputs := if more = [] then rest else .code (.command more) :: rest }) ∧
        (∀ b bytes rest, s.inputs = .code (.command (b :: bytes)) :: rest →
          (isCommand b = false → step s = .refused (.unknownCommand b)) ∧
          (isCommand b = true → bytes.length < furtherCount b → step s = .refused (.truncatedCommand b)))))

/-- An instruction placed by `withFetchWord` is the very next thing that runs; it is an input, so a CAP_ENTER on the channel of an
ended capture marks that channel (notes/assumptions/1.md, 14.md, 17.md). -/
def Obligations.PlacedWordRunsNext : Prop :=
  ∀ (s : State) (nbits w : Nat) (i : Instr), decodeTableWord nbits w = some i →
    step (s.withFetchWord nbits w)
      = exec i (asked i { s with issued := [], host := { s.host with awaiting := none, task := .idle } })

/-- An illegal request word is answered with code 1, sets `BAD_REQUEST` and changes nothing else (30_encoding.md R53). -/
def Obligations.IllegalRequestIsRefused : Prop :=
  ∀ (s : State) (w : RequestWord) (rest : List Input),
    illegalWord w = true → s.Quiet → s.inputs = .code (.request w) :: rest →
      step s = .next (errored { s with inputs := rest } 1#3 0x01#8)

/-- The six reserved operation codes are answered with code 1 in every state, whatever the operand (30_encoding.md R53). -/
def Obligations.ReservedOperationsAnswerBadRequest : Prop :=
  ∀ (s : State) (x : Word),
    exec (.reservedOp0 x) s = .next (errored s 1#3 0x01#8) ∧
    exec (.reservedOpB x) s = .next (errored s 1#3 0x01#8) ∧
    exec (.reservedOpC x) s = .next (errored s 1#3 0x01#8) ∧
    exec (.reservedOpD x) s = .next (errored s 1#3 0x01#8) ∧
    exec (.reservedOpE x) s = .next (errored s 1#3 0x01#8) ∧
    exec (.reservedOpF x) s = .next (errored s 1#3 0x01#8)

/-- No instruction stops: every row ends in a next state, in every state. For a bridge command that state may be one in which
its read is still open, or the command was turned away or torn down, which are the model's choices: notes/assumptions/8.md,
9.md, 10.md. -/
def Obligations.EveryInstructionEndsInANextState : Prop :=
  ∀ (i : Instr) (s : State), ∃ t, exec i s = .next t

/-! ## Checksum Engine -/

/-- CRC_SEED (40_checksum.md R83). -/
def Obligations.CrcSeedLoadsAndOpensSession : Prop :=
  ∀ (s : State) (v : Word),
    decodeRequest (0x1#4 ++ v) = .ok (.crcSeed v) ∧
    (s.block.capActive = false →
      exec (.crcSeed v) s = .next (answered s { s.block with crc := v, connected := true } 0x0000#16 [])) ∧
    (s.block.capActive = true → exec (.crcSeed v) s = .next (errored s 3#3 0x04#8))

/-- CRC_UPDATE_BYTE is the bit-serial CRC of R80 over eight bits (40_checksum.md R84). -/
def Obligations.CrcUpdateByteFeedsEightBits : Prop :=
  ∀ (s : State) (b : Byte),
    decodeRequest (0x200#12 ++ b) = .ok (.crcUpdateByte b) ∧
    crcNib (crcNib s.block.crc (b.extractLsb' 4 4)) (b.extractLsb' 0 4) = crcShift s.block.crc b ∧
    (s.block.capActive = false → s.block.connected = true →
      exec (.crcUpdateByte b) s
        = .next (answered s { s.block with crc := crcShift s.block.crc b } 0x0000#16 [])) ∧
    (s.block.capActive = true → exec (.crcUpdateByte b) s = .next (errored s 3#3 0x04#8)) ∧
    (s.block.capActive = false → s.block.connected = false →
      exec (.crcUpdateByte b) s = .next (errored s 2#3 0x02#8))

/-- CRC_UPDATE_NIBBLE is the bit-serial CRC of R80 over four bits, and two of them make a byte update
(40_checksum.md R85). -/
def Obligations.CrcUpdateNibbleFeedsFourBits : Prop :=
  ∀ (s : State) (n : Nibble) (b : Byte),
    decodeRequest (0x3000#16 ++ n) = .ok (.crcUpdateNibble n) ∧
    crcNib s.block.crc n = crcShift s.block.crc n ∧
    (s.block.capActive = false → s.block.connected = true →
      exec (.crcUpdateNibble n) s
        = .next (answered s { s.block with crc := crcShift s.block.crc n } 0x0000#16 [])) ∧
    (s.block.capActive = false → s.block.connected = true →
      ∃ t u v, exec (.crcUpdateNibble (b.extractLsb' 4 4)) s = .next t ∧
        exec (.crcUpdateNibble (b.extractLsb' 0 4)) t = .next u ∧
        exec (.crcUpdateByte b) s = .next v ∧ u.block = v.block) ∧
    (s.block.capActive = true → exec (.crcUpdateNibble n) s = .next (errored s 3#3 0x04#8)) ∧
    (s.block.capActive = false → s.block.connected = false →
      exec (.crcUpdateNibble n) s = .next (errored s 2#3 0x02#8))

/-- CRC_READ (40_checksum.md R86). -/
def Obligations.CrcReadReturnsTheAccumulator : Prop :=
  (∀ x : Word, decodeRequest (0x4#4 ++ x) = if x = 0#16 then .ok .crcRead else .error (.mustBeZero (0x4#4 ++ x))) ∧
  ∀ s : State,
    (s.block.capActive = false → s.block.connected = true →
      exec .crcRead s = .next (answered s s.block s.block.crc [])) ∧
    (s.block.capActive = true → exec .crcRead s = .next (errored s 3#3 0x04#8)) ∧
    (s.block.capActive = false → s.block.connected = false → exec .crcRead s = .next (errored s 2#3 0x02#8)) ∧
    (∀ v t, s.block.capActive = false → exec (.crcSeed v) s = .next t →
      exec .crcRead t = .next (answered t t.block v []))

/-- CRC_CHECK (40_checksum.md R87). -/
def Obligations.CrcCheckComparesAndWarns : Prop :=
  ∀ (s : State) (v : Word),
    decodeRequest (0x5#4 ++ v) = .ok (.crcCheck v) ∧
    (s.block.capActive = false → s.block.connected = true → s.block.crc = v →
      exec (.crcCheck v) s = .next (answered s s.block 0x0001#16 [])) ∧
    (s.block.capActive = false → s.block.connected = true → s.block.crc ≠ v →
      exec (.crcCheck v) s
        = .next (answered s { s.block with errFlags := s.block.errFlags ||| 0x20#8 } 0x0000#16 [])) ∧
    (s.block.capActive = true → exec (.crcCheck v) s = .next (errored s 3#3 0x04#8)) ∧
    (s.block.capActive = false → s.block.connected = false →
      exec (.crcCheck v) s = .next (errored s 2#3 0x02#8))

/-- The nibble table computes the bit-serial rule (40_checksum.md R81), and its entries are the CRC of a nibble from 0. -/
def Obligations.NibbleTableIsTheBitSerialRule : Prop :=
  (List.range 16).map (fun i => crcTable (BitVec.ofNat 4 i))
    = [0x0000#16, 0x1021#16, 0x2042#16, 0x3063#16, 0x4084#16, 0x50A5#16, 0x60C6#16, 0x70E7#16,
       0x8108#16, 0x9129#16, 0xA14A#16, 0xB16B#16, 0xC18C#16, 0xD1AD#16, 0xE1CE#16, 0xF1EF#16] ∧
  (∀ i : Nibble, crcTable i = crcShift 0x0000#16 i) ∧
  (∀ (c : Word) (n : Nibble), crcNib c n = (c <<< 4) ^^^ crcTable (c.extractLsb' 12 4 ^^^ n)) ∧
  (∀ (c : Word) (n : Nibble), crcNib c n = crcShift c n) ∧
  (∀ (c : Word) (b : Byte), crcShift c b = (c <<< 8) ^^^ crcShift 0x0000#16 (c.extractLsb' 8 8 ^^^ b)) ∧
  (∀ (c : Word) (b : Byte), crcShift c b = crcNib (crcNib c (b.extractLsb' 4 4)) (b.extractLsb' 0 4))

/-- The CRC function is linear over GF(2), for every width up to 16 (40_checksum.md R89). -/
def Obligations.CrcShiftIsLinear : Prop :=
  ∀ (k : Nat), k ≤ 16 → ∀ (c1 c2 : Word) (v1 v2 : BitVec k),
    crcShift (c1 ^^^ c2) (v1 ^^^ v2) = crcShift c1 v1 ^^^ crcShift c2 v2 ∧ crcShift 0x0000#16 (0#k) = 0x0000#16

/-- Issued CRC_UPDATE_BYTE requests fold the bytes into `crc`, in order, one request a step, and so does any way of cutting
them into two runs (40_checksum.md R88). -/
def Obligations.CrcUpdateRunFoldsTheBytes : Prop :=
  (∀ (s : State) (bytes : List Byte), s.host.awaiting = none → s.block.connected = true → s.block.capActive = false →
    Host.Core.run core bytes.length { s with issued := updateWords bytes ++ s.issued }
      = .next
        { s with
          block := { s.block with crc := bytes.foldl (fun c b => crcShift c b) s.block.crc }
          responses := s.responses ++ List.replicate bytes.length ⟨0#3, 0x0000#16, []⟩ }) ∧
  (∀ (c : Word) (a b : List Byte), crcUpdate (crcUpdate c a) b = crcUpdate c (a ++ b) ∧ crcUpdate c [] = c) ∧
  crcUpdate 0x0000#16 [0x41#8, 0x42#8] = 0x567B#16 ∧ crcUpdate 0x0000#16 [0x42#8, 0x41#8] = 0x334B#16

/-! ## Session requests -/

/-- DISCONNECT, in every state (41_session_boundary.md R101). -/
def Obligations.DisconnectClearsAllButErrFlags : Prop :=
  (∀ x : Word, decodeRequest (0x9#4 ++ x) = if x = 0#16 then .ok .disconnect else .error (.mustBeZero (0x9#4 ++ x))) ∧
  ∀ s : State,
    exec .disconnect s = .next (answered s (disconnected s.block) 0x0000#16 []) ∧
    (s.Inv → s.block.connected = false → disconnected s.block = s.block)

/-- ERR_READ, in every state (41_session_boundary.md R102). -/
def Obligations.ErrReadReturnsTheStickyRegister : Prop :=
  (∀ x : Word, decodeRequest (0xA#4 ++ x) = if x = 0#16 then .ok .errRead else .error (.mustBeZero (0xA#4 ++ x))) ∧
  ∀ s : State, exec .errRead s = .next (answered s s.block (0x00#8 ++ s.block.errFlags) [])

/-! ## Capture Decoder -/

/-- CAP_ENTER (42_capture_decoder.md R130). -/
def Obligations.CapEnterStartsACleanDecoder : Prop :=
  (∀ x : Word, decodeRequest (0x6#4 ++ x) = if x = 0#16 then .ok .capEnter else .error (.mustBeZero (0x6#4 ++ x))) ∧
  ∀ s : State,
    (s.block.capActive = false → s.block.connected = true →
      exec .capEnter s
        = .next (answered s
            { s.block with capActive := true, pendingStart := false, accValue := 0#9, accCount := 0#4 } 0x0000#16 [])) ∧
    (s.block.capActive = true → exec .capEnter s = .next (errored s 3#3 0x04#8)) ∧
    (s.block.capActive = false → s.block.connected = false → exec .capEnter s = .next (errored s 2#3 0x02#8))

/-- The symbols as instructions of their own, in capture mode: the effects of 42_capture_decoder.md R132 to R139. That such an
instruction exists beside CAP_SYMBOL is the model's reading, notes/assumptions/3.md. -/
def Obligations.SymbolsOnTheirOwnAct : Prop :=
  ∀ (s : State) (low : BitVec 2) (d : BitVec 3), s.block.capActive = true →
    exec .symIdle s = .next (answered s s.block 0x0000#16 []) ∧
    exec .symStart s = .next (answered s { s.block with pendingStart := true } 0x0000#16 []) ∧
    exec .symStop s = .next (answered s { s.block with pendingStart := true } 0x0000#16 [.stop]) ∧
    (s.params.reservedSymbol = .ignore →
      exec .symReserved3 s = .next (answered s s.block 0x0000#16 []) ∧
      exec (.symReserved4To7 low) s = .next (answered s s.block 0x0000#16 [])) ∧
    (s.params.reservedSymbol = .fault →
      exec .symReserved3 s = .next (errored s 5#3 0x10#8) ∧
      exec (.symReserved4To7 low) s = .next (errored s 5#3 0x10#8)) ∧
    (s.block.accCount ≠ 6#4 →
      exec (.symData d) s
        = .next (answered s
            { s.block with accValue := (s.block.accValue <<< 3) ||| (0#6 ++ d), accCount := s.block.accCount + 3#4 }
            0x0000#16 [])) ∧
    (s.block.accCount = 6#4 →
      exec (.symData d) s
        = .next (answered s { s.block with pendingStart := false, accValue := 0#9, accCount := 0#4 } 0x0000#16
            [groupEvent s.block.pendingStart (s.block.accValue.extractLsb' 0 6 ++ d)]))

/-- CAP_SYMBOL is the step of its operand's symbol class, and outside capture mode both are answered with code 4
(42_capture_decoder.md R131; that a symbol on its own is CAP_SYMBOL of it is the model's reading, notes/assumptions/3.md). -/
def Obligations.CapSymbolIsItsSymbol : Prop :=
  ∀ (s : State) (n : Nibble),
    decodeRequest (0x7000#16 ++ n) = .ok (.capSymbol n) ∧
    exec (.capSymbol n) s = exec (decodeSymbol n) s ∧
    (s.block.capActive = false → exec (.capSymbol n) s = .next (errored s 4#3 0x08#8))

/-- Symbol 0 changes nothing; symbol 1 marks `pending_start`; symbol 2 emits Stop and marks `pending_start`; all three keep a
partial group (42_capture_decoder.md R132, R133, R134). -/
def Obligations.ControlSymbolsIdleStartStop : Prop :=
  ∀ s : State, s.block.capActive = true →
    exec (.capSymbol 0x0#4) s = .next (answered s s.block 0x0000#16 []) ∧
    exec (.capSymbol 0x1#4) s = .next (answered s { s.block with pendingStart := true } 0x0000#16 []) ∧
    exec (.capSymbol 0x2#4) s = .next (answered s { s.block with pendingStart := true } 0x0000#16 [.stop])

/-- Symbols 3 to 7 under both policies (42_capture_decoder.md R135). -/
def Obligations.ReservedSymbolsFollowThePolicy : Prop :=
  ∀ (s : State) (n : Nibble), s.block.capActive = true → reservedSymbol n = true →
    (s.params.reservedSymbol = .fault → exec (.capSymbol n) s = .next (errored s 5#3 0x10#8)) ∧
    (s.params.reservedSymbol = .ignore → exec (.capSymbol n) s = .next (answered s s.block 0x0000#16 []))

/-- A data symbol appends its three bits; a third one completes the group, which is emitted and cleared
(42_capture_decoder.md R136 to R139). -/
def Obligations.DataSymbolAppendsOrCompletes : Prop :=
  ∀ (s : State) (d : BitVec 3), s.block.capActive = true →
    (s.block.accCount ≠ 6#4 →
      exec (.capSymbol (0b1#1 ++ d)) s
        = .next (answered s
            { s.block with accValue := (s.block.accValue <<< 3) ||| (0#6 ++ d), accCount := s.block.accCount + 3#4 }
            0x0000#16 [])) ∧
    (s.block.accCount = 6#4 →
      exec (.capSymbol (0b1#1 ++ d)) s
        = .next (answered s { s.block with pendingStart := false, accValue := 0#9, accCount := 0#4 } 0x0000#16
            [groupEvent s.block.pendingStart (s.block.accValue.extractLsb' 0 6 ++ d)]))

/-- CAP_BYTE is its two symbols, high nibble first; an error of the first leaves no effect, an error of the second keeps the
first's effect and event (42_capture_decoder.md R140). -/
def Obligations.CapByteIsTwoSymbolSteps : Prop :=
  ∀ (s : State) (b : Byte),
    decodeRequest (0x800#12 ++ b) = .ok (.capByte b) ∧
    (s.block.capActive = false → exec (.capByte b) s = .next (errored s 4#3 0x08#8)) ∧
    (s.block.capActive = true →
      (∀ b1 e1 b2 e2,
        exec (.capSymbol (b.extractLsb' 4 4)) s = .next (answered s b1 0x0000#16 e1) →
        exec (.capSymbol (b.extractLsb' 0 4)) { s with block := b1 }
          = .next (answered { s with block := b1 } b2 0x0000#16 e2) →
        exec (.capByte b) s = .next (answered s b2 0x0000#16 (e1 ++ e2))) ∧
      (s.params.reservedSymbol = .fault → reservedSymbol (b.extractLsb' 4 4) = true →
        exec (.capByte b) s = .next (errored s 5#3 0x10#8)) ∧
      (∀ b1 e1, s.params.reservedSymbol = .fault → reservedSymbol (b.extractLsb' 0 4) = true →
        exec (.capSymbol (b.extractLsb' 4 4)) s = .next (answered s b1 0x0000#16 e1) →
        exec (.capByte b) s
          = .next
            { s with
              block := { b1 with errFlags := b1.errFlags ||| 0x10#8 }
              responses := s.responses ++ [⟨5#3, 0x0000#16, e1⟩] }))

/-- CAP_BYTE in capture mode succeeds when neither nibble is a reserved symbol, or the policy ignores them, with at most two
events (42_capture_decoder.md R140, R143). -/
def Obligations.CapByteSucceedsWithoutReservedSymbols : Prop :=
  ∀ (s : State) (b : Byte), s.block.capActive = true →
    (s.params.reservedSymbol = .ignore ∨
      (reservedSymbol (b.extractLsb' 4 4) = false ∧ reservedSymbol (b.extractLsb' 0 4) = false)) →
    ∃ blk events, exec (.capByte b) s = .next (answered s blk 0x0000#16 events) ∧ events.length ≤ 2 ∧
      blk.crc = s.block.crc ∧ blk.connected = s.block.connected ∧ blk.capActive = true ∧ blk.errFlags = s.block.errFlags

/-- Over a run of CAP_SYMBOL requests without reserved symbols from an empty accumulator: as many Start and Byte events as
thirds of the data symbols, and as many Stop events as symbols 2 (42_capture_decoder.md R143). -/
def Obligations.EventCountsOfASymbolRun : Prop :=
  ∀ (s : State) (symbols : List Nibble),
    s.Quiet → s.block.capActive = true → s.block.accCount = 0#4 → s.inputs = symbolInputs symbols →
    (∀ n ∈ symbols, reservedSymbol n = false) →
    ∃ t rs, Host.Core.run core symbols.length s = .next t ∧ t.responses = s.responses ++ rs ∧ t.inputs = [] ∧
      ((eventsOf rs).filter (fun e => !isStop e)).length = (symbols.filter (fun n => 8 ≤ n.toNat)).length / 3 ∧
      ((eventsOf rs).filter isStop).length = (symbols.filter (fun n => n == 0x2#4)).length

/-- A group is its three data symbols, first symbol on top, whatever control symbols stand between them; it is an address
phase exactly when `pending_start` was set before or a START or STOP came between (30_encoding.md R58; 42_capture_decoder.md
R144 (b)). -/
def Obligations.GroupIsItsThreeDataSymbols : Prop :=
  ∀ (s : State) (d1 d2 d3 : BitVec 3) (g1 g2 : List Nibble) (rest : List Input),
    s.Quiet → s.block.capActive = true → s.block.accCount = 0#4 →
    (∀ n ∈ g1 ++ g2, n.toNat ≤ 2) →
    s.inputs = symbolInputs (((0b1#1 ++ d1) :: g1) ++ ((0b1#1 ++ d2) :: g2) ++ [0b1#1 ++ d3]) ++ rest →
    ∃ rs, Host.Core.run core (g1.length + g2.length + 3) s
        = .next
          { s with
            inputs := rest
            responses := s.responses ++ rs
            block := { s.block with pendingStart := false, accValue := 0#9, accCount := 0#4 } } ∧
      (eventsOf rs).filter (fun e => !isStop e)
        = [groupEvent (s.block.pendingStart || (g1 ++ g2).any (fun n => n != 0x0#4)) (d1 ++ d2 ++ d3)]

/-! ## Errors, invariants and whole-machine rules -/

/-- Every request is answered once; one that ends with an error sets its flag and changes no other register, but for a
CAP_BYTE whose second symbol fails (60_exceptions.md R163; the symbol rows as requests are the model's reading,
notes/assumptions/3.md). -/
def Obligations.ErrorsChangeOnlyErrFlags : Prop :=
  ∀ (i : Instr) (s : State), onBlock i = true →
    ∃ t r, exec i s = .next t ∧ t.responses = s.responses ++ [r] ∧
      t = { s with block := t.block, responses := t.responses } ∧
      (r.code ≠ 0#3 →
        r.data = 0x0000#16 ∧ t.block.errFlags = s.block.errFlags ||| (1#8 <<< (r.code.toNat - 1)) ∧
        ((r.events = [] ∧ t.block = { s.block with errFlags := t.block.errFlags }) ∨
          ∃ b b1, i = .capByte b ∧
            exec (.capSymbol (b.extractLsb' 4 4)) s = .next (answered s b1 0x0000#16 r.events) ∧
            t.block = { b1 with errFlags := t.block.errFlags }))

/-- No step but one that takes the reset signal clears a bit of `err_flags` (10_state.md R27, 60_exceptions.md R162;
that the exit of the host's process is no reset is the model's choice, notes/assumptions/31.md). -/
def Obligations.ErrFlagsAreSticky : Prop :=
  ∀ (s t : State), step s = .next t → s.inputs ≠ .reset :: t.inputs →
    ∀ j, s.block.errFlags.getLsbD j = true → t.block.errFlags.getLsbD j = true

/-- The reset state has the invariants of 10_state.md R25 to R28. -/
def Obligations.ResetHasTheInvariants : Prop := State.reset.Inv

/-- Every step keeps the invariants of 10_state.md R25 to R28. -/
def Obligations.StepKeepsTheInvariants : Prop :=
  ∀ (s t : State), s.Inv → step s = .next t → t.Inv

/-- Only CRC_SEED opens a session, only CAP_ENTER enters capture mode, and only DISCONNECT ends either
(10_state.md R22, R23; 42_capture_decoder.md R141). -/
def Obligations.SessionAndCaptureChangeOnlyBy : Prop :=
  ∀ (i : Instr) (s t : State), exec i s = .next t →
    (s.block.connected = false → t.block.connected = true → ∃ v, i = .crcSeed v) ∧
    (s.block.connected = true → t.block.connected = false → i = .disconnect) ∧
    (s.block.capActive = false → t.block.capActive = true → i = .capEnter) ∧
    (s.block.capActive = true → t.block.capActive = false → i = .disconnect)

/-- `crc` changes only by the four requests of 10_state.md R21, and never in capture mode but by DISCONNECT
(60_exceptions.md R164). -/
def Obligations.CrcChangesOnlyBy : Prop :=
  ∀ (i : Instr) (s t : State), exec i s = .next t → t.block.crc ≠ s.block.crc →
    i = .disconnect ∨
    (s.block.capActive = false ∧
      ((∃ v, i = .crcSeed v) ∨
        (s.block.connected = true ∧ ((∃ b, i = .crcUpdateByte b) ∨ ∃ n, i = .crcUpdateNibble n))))

/-- The value of `crc` cannot be observed while there is no session: two machines that differ in it only give the same
responses and host traffic for any number of steps (70_reset_and_hazards.md R181, R190). -/
def Obligations.CrcIsHiddenWithoutASession : Prop :=
  ∀ (k : Nat) (s t : State) (c : Word), s.block.connected = false → Host.Core.run core k s = .next t →
    ∃ t', Host.Core.run core k (withCrc c s) = .next t' ∧ t'.responses = t.responses ∧ t'.host = t.host ∧
      t'.issued = t.issued ∧ (t.block.connected = true → t' = t)

/-- What was answered, sent or reported is never withdrawn, a step gives at most one response, and no step changes the
parameters (42_capture_decoder.md R142; 00_scope.md R6 to R9). That these are lists and fields of State is the model's choice:
notes/assumptions/2.md, 4.md. -/
def Obligations.LogsOnlyGrow : Prop :=
  ∀ (s t : State), step s = .next t →
    t.params = s.params ∧
    (∃ rs, t.responses = s.responses ++ rs ∧ rs.length ≤ 1) ∧
    (∃ bytes, t.host.tx = s.host.tx ++ bytes) ∧
    (∃ results, t.host.results = s.host.results ++ results)

/-- After reset every register holds the value of 10_state.md R30: in the state after reset, and after a reset signal in any
state. -/
def Obligations.ResetSetsEveryRegister : Prop :=
  State.reset.block = ⟨0x0000#16, false, false, false, 0#9, 0#4, 0x00#8⟩ ∧
  ∀ (s : State) (rest : List Input), s.Quiet → s.inputs = .reset :: rest →
    ∃ t, step s = .next t ∧ t.block = ⟨0x0000#16, false, false, false, 0#9, 0#4, 0x00#8⟩

/-- The reset signal reaches the block and nothing else, also while the host waits for a byte (the model's reading,
notes/assumptions/16.md; 70_reset_and_hazards.md R180). -/
def Obligations.ResetSignalReachesOnlyTheBlock : Prop :=
  (∀ (s : State) (a : Await) (rest : List Input),
    s.host.awaiting = some a → 0 < a.count → s.host.rx = [] → s.inputs = .reset :: rest →
    step s = .next { s with inputs := rest, block := ⟨0x0000#16, false, false, false, 0#9, 0#4, 0x00#8⟩ }) ∧
  ∀ (s : State) (rest : List Input), s.Quiet → s.inputs = .reset :: rest →
    step s = .next { s with inputs := rest, block := ⟨0x0000#16, false, false, false, 0#9, 0#4, 0x00#8⟩ }

/-- After reset only CRC_SEED, DISCONNECT and ERR_READ succeed; the other requests fail with the codes of
70_reset_and_hazards.md R181. -/
def Obligations.AfterResetOnlyThreeRequestsSucceed : Prop :=
  ∀ s : State, s.block = Block.reset →
    (∀ v, exec (.crcSeed v) s = .next (answered s { s.block with crc := v, connected := true } 0x0000#16 [])) ∧
    exec .disconnect s = .next (answered s s.block 0x0000#16 []) ∧
    exec .errRead s = .next (answered s s.block 0x0000#16 []) ∧
    (∀ b, exec (.crcUpdateByte b) s = .next (errored s 2#3 0x02#8)) ∧
    (∀ n, exec (.crcUpdateNibble n) s = .next (errored s 2#3 0x02#8)) ∧
    exec .crcRead s = .next (errored s 2#3 0x02#8) ∧
    (∀ v, exec (.crcCheck v) s = .next (errored s 2#3 0x02#8)) ∧
    exec .capEnter s = .next (errored s 2#3 0x02#8) ∧
    (∀ n, exec (.capSymbol n) s = .next (errored s 4#3 0x08#8)) ∧
    (∀ b, exec (.capByte b) s = .next (errored s 4#3 0x08#8))

/-! ## The bridge boundary -/

/-- No bridge command changes a register of the block or answers a request, whatever it does, nor does a later step that goes
on with its read (41_session_boundary.md R103, R106 to R109, R113). -/
def Obligations.BridgeCommandsLeaveTheBlock : Prop :=
  (∀ (i : Instr) (s t : State), onBlock i = false → exec i s = .next t →
    t.block = s.block ∧ t.responses = s.responses ∧ t.inputs = s.inputs ∧ t.params = s.params ∧
    t.host.linkDown = s.host.linkDown ∧
    (t.host.tx = s.host.tx ∨ ∃ bytes, encode i = .command bytes ∧ t.host.tx = s.host.tx ++ bytes)) ∧
  (∀ (s t : State) (a : Await), s.host.awaiting = some a → step s = .next t → s.inputs ≠ .reset :: t.inputs →
    t.block = s.block ∧ t.responses = s.responses ∧ t.params = s.params ∧ t.host.linkDown = s.host.linkDown ∧
    t.host.tx = s.host.tx ∧ (t.inputs = s.inputs ∨ s.inputs = .op .close :: t.inputs ∨ s.inputs = .exit :: t.inputs))

/-- Which requests bridge traffic issues: CRC_UPDATE_BYTE only for the bytes of a write or for bytes read, CAP_ENTER only by
the capture command, CAP_BYTE only for a byte of the capture stream, CRC_SEED only by a connect's status query, else nothing
but a tear-down's DISCONNECT; for a command, for every later step that goes on with its read, and for a procedure's begin
(41_session_boundary.md R103). That the driver issues no CRC_CHECK after a status query, and that a stream byte is taken by
one input, are the model's choices: notes/assumptions/28.md, 14.md. -/
def Obligations.OnlyReadAndWriteDataEntersTheCrc : Prop :=
  (∀ (i : Instr) (s t : State), onBlock i = false → exec i s = .next t →
    ∃ words, t.issued = s.issued ++ words ∧
      (words = [] ∨ words = [0x90000#20] ∨
        (i = .hostEnterCapture ∧ words = [0x60000#20]) ∨
        (i = .hostStatus ∧ connecting s = true ∧ ∃ v : Word, words = [0x1#4 ++ v]) ∨
        (∃ n data, i = .hostWriteChunk n data ∧ words = updateWords (writeSent s.host.task ++ data)) ∨
        (∃ n bytes, i = .hostReadChunk n ∧ bytes.length = n.toNat + 1 ∧
          (∃ rest, takeReply s.params.timeout.isSome (n.toNat + 1) s.host.rx = .done bytes rest) ∧
          words = updateWords bytes))) ∧
  (∀ (s t : State) (a : Await), s.host.awaiting = some a → step s = .next t →
    ∃ words, t.issued = s.issued ++ words ∧
      (words = [] ∨ words = [0x90000#20] ∨
        (∃ bytes rest, replyOf a s = .done bytes rest ∧ t.host.awaiting = none ∧ t.host.rx = rest ∧
          ((a.purpose = .status ∧ connecting s = true ∧ ∃ v : Word, words = [0x1#4 ++ v]) ∨
            (∃ data, a.purpose = .writeAck data ∧ words = updateWords (writeSent s.host.task ++ data)) ∨
            (a.purpose = .readData ∧ words = updateWords bytes) ∨
            (∃ b more, a.purpose = .captureByte ∧ bytes = b :: more ∧ words = [0x800#12 ++ b]))))) ∧
  (∀ (s t : State) (o : HostOp) (xs : List Input), s.Quiet → s.inputs = .op o :: xs → step s = .next t →
    t.issued = [] ∨ (o = .close ∧ t.issued = [0x90000#20]) ∨
      (o = .captureRead ∧ s.block.capActive = true ∧
        (t.issued = [0x90000#20] ∨ ∃ b : Byte, t.issued = [0x800#12 ++ b] ∧ .byte b ∈ s.host.rx)))

/-- Without a session a command of R105 to R113 fails with NotConnected, but for the status query inside connect; in capture
mode no command and no procedure is begun; a channel that still carries the stream of an ended capture takes neither, nor is
that stream read in another capture or outside capture mode. None
sends a byte or touches the block (41_session_boundary.md R114; 70_reset_and_hazards.md R183, R187; what a driver that is asked
to does is the model's choice, notes/assumptions/8.md). -/
def Obligations.CommandsNeedASessionAndNoCapture : Prop :=
  (∀ (s : State) (i : Instr), onBlock i = false →
    (needsSession i = true → s.block.capActive = false → s.block.connected = false →
      (i = .hostStatus → connecting s = false) → exec i s = .next (turnedAway s .notConnected)) ∧
    (s.block.capActive = true → exec i s = .next (turnedAway s .captureActive)) ∧
    (s.block.capActive = false → s.host.channel ≠ .clear → mayBeSent i s →
      exec i s = .next (turnedAway s .channelAbandoned))) ∧
  (∀ (s : State) (o : HostOp) (xs : List Input), s.Quiet → s.inputs = .op o :: xs →
    (o = .connect ∨ (∃ bytes, o = .write bytes) ∨ ∃ count, o = .read count) →
    (s.block.capActive = true → step s = .next (turnedAway { s with inputs := xs } .captureActive)) ∧
    (s.block.capActive = false → s.block.connected = false → o ≠ .connect →
      step s = .next (turnedAway { s with inputs := xs } .notConnected)) ∧
    (s.block.capActive = false → s.host.channel ≠ .clear → (o ≠ .connect → s.block.connected = true) →
      step s = .next (turnedAway { s with inputs := xs } .channelAbandoned))) ∧
  (∀ (s : State) (xs : List Input), s.Quiet → s.inputs = .op .captureRead :: xs →
    (s.block.capActive = false → step s = .next (turnedAway { s with inputs := xs } .notCapturing)) ∧
    (s.block.capActive = true → s.host.channel = .oldStream →
      step s = .next (turnedAway { s with inputs := xs } .channelAbandoned)))

/-- The commands without a reply (41_session_boundary.md R109, R113). -/
def Obligations.StopAndMonitorSendOneByte : Prop :=
  ∀ s : State, Live s →
    exec .hostI2cStop s
      = .next { s with host := { s.host with tx := s.host.tx ++ [0x70#8], results := s.host.results ++ [.sent] } } ∧
    exec .hostMonitorOn s
      = .next { s with host := { s.host with tx := s.host.tx ++ [0x6D#8], results := s.host.results ++ [.sent] } } ∧
    exec .hostMonitorOff s
      = .next { s with host := { s.host with tx := s.host.tx ++ [0x20#8], results := s.host.results ++ [.sent] } }

/-- The capture command sends `'c'` and issues CAP_ENTER, and each byte of the stream that the host then takes, whether it has
come or comes while the host waits for it, is one CAP_BYTE and is then gone from the channel (41_session_boundary.md R112;
one byte at a time and the mark `channel` are the model's form, notes/assumptions/14.md). -/
def Obligations.CaptureCommandEntersCapture : Prop :=
  (∀ s : State, Live s →
    exec .hostEnterCapture s
      = .next
        { s with
          issued := s.issued ++ [0x60000#20]
          host :=
            { s.host with tx := s.host.tx ++ [0x63#8], channel := .stream, results := s.host.results ++ [.sent] } }) ∧
  (∀ (s : State) (b : Byte) (rest : List Delivery) (xs : List Input),
    s.Quiet → s.block.capActive = true → s.host.channel ≠ .oldStream → s.inputs = .op .captureRead :: xs →
    s.host.rx = .byte b :: rest →
    ∃ t, step s = .next t ∧
      t = { s with
        inputs := xs, issued := [0x800#12 ++ b], host := { s.host with rx := rest, channel := .stream } } ∧
      step t = exec (.capByte b) { t with issued := [] }) ∧
  (∀ (s : State) (xs : List Input),
    s.Quiet → s.block.capActive = true → s.host.channel ≠ .oldStream → s.inputs = .op .captureRead :: xs →
    s.host.rx = [] →
    step s
      = .next
        { s with
          inputs := xs, host := { s.host with channel := .stream, awaiting := some ⟨1, .captureByte⟩ } }) ∧
  (∀ (s : State) (b : Byte) (rest : List Delivery),
    s.host.awaiting = some ⟨1, .captureByte⟩ → s.host.rx = .byte b :: rest →
    step s = .next (exchanged s [] rest s.host.task [] [0x800#12 ++ b]))

/-- An echo probe sends `{'e', test}` and compares one byte; a wrong echo and a failed read, at once or in a later step, are
HandshakeFailed (41_session_boundary.md R104; what a probe outside a connect reports, and that a failed read is R104's short
read and not R116's TransportError, are the model's readings, notes/assumptions/12.md, 10.md; that the channel stays open with
the rest of its bytes after HandshakeFailed is its choice, 30.md). -/
def Obligations.EchoProbeComparesTheEcho : Prop :=
  (∀ (s : State) (test e : Byte) (rest : List Delivery),
    s.block.capActive = false → s.host.channel = .clear → s.host.linkDown = false →
    (s.host.rx = .byte e :: rest →
      (e = test → connecting s = true →
        exec (.hostEchoProbe test) s = .next (exchanged s [0x65#8, test] rest s.host.task [] [])) ∧
      (e = test → connecting s = false →
        exec (.hostEchoProbe test) s = .next (exchanged s [0x65#8, test] rest s.host.task [.echoed] [])) ∧
      (e ≠ test →
        exec (.hostEchoProbe test) s = .next (exchanged s [0x65#8, test] rest .idle [.handshakeFailed] []))) ∧
    (s.host.rx = .failure :: rest →
      exec (.hostEchoProbe test) s = .next (exchanged s [0x65#8, test] rest .idle [.handshakeFailed] []))) ∧
  (∀ (s : State) (test : Byte) (rest : List Delivery),
    s.host.awaiting = some ⟨1, .echo test⟩ → s.host.rx = .failure :: rest →
    step s = .next (exchanged s [] rest .idle [.handshakeFailed] []))

/-- A status query reads 80 bytes, parses the CRC field, and touches no register of the block; a malformed record is
reported and does not close the connection (41_session_boundary.md R105; how bytes are parsed is free, notes/assumptions/7.md;
that the driver only reports the CRC and issues no CRC_CHECK is the model's choice, notes/assumptions/28.md). -/
def Obligations.StatusQueryReadsTheRecord : Prop :=
  ∀ (s : State) (record : List Byte) (rest : List Delivery),
    Live s → connecting s = false → record.length = 80 → s.host.rx = delivered record rest →
    exec .hostStatus s
      = .next
        (match Config.parseStatusCrc record with
        | some v => exchanged s [0x3F#8] rest s.host.task [.status v] []
        | none => exchanged s [0x3F#8] rest .idle [.statusParseError] [])

/-- A scan reads 112 bytes; byte `i` is address `8 + i`, `'1'` is present and any other value absent, the other addresses are
not scanned (41_session_boundary.md R106, 30_encoding.md R68). -/
def Obligations.ScanMapsAddresses : Prop :=
  ∀ (s : State) (bytes : List Byte) (rest : List Delivery),
    Live s → bytes.length = 112 → s.host.rx = delivered bytes rest →
    ∃ flags, exec .hostScan s = .next (exchanged s [0x64#8] rest s.host.task [.scan flags] []) ∧
      ∀ a : BitVec 7,
        (∀ b, 8 ≤ a.toNat → bytes[a.toNat - 8]? = some b →
          scanPresence flags a = if b = 0x31#8 then .present else .absent) ∧
        (a.toNat < 8 ∨ 119 < a.toNat → scanPresence flags a = .notScanned)

/-- A bus reset reads SDA from bit 1 and SCL from bit 0 of one byte; a failed read, at once or in a later step, gives levels
(0,0) and is not fatal (41_session_boundary.md R107). -/
def Obligations.BusResetReadsTheLevels : Prop :=
  (∀ (s : State) (b : Byte) (rest : List Delivery), Live s →
    (s.host.rx = .byte b :: rest →
      exec .hostBusReset s
        = .next (exchanged s [0x78#8] rest s.host.task [.levels (b.getLsbD 1) (b.getLsbD 0)] [])) ∧
    (s.host.rx = .failure :: rest →
      exec .hostBusReset s = .next (exchanged s [0x78#8] rest s.host.task [.levels false false] []))) ∧
  (∀ (s : State) (rest : List Delivery),
    s.host.awaiting = some ⟨1, .busReset⟩ → s.host.rx = .failure :: rest →
    step s = .next (exchanged s [] rest s.host.task [.levels false false] []))

/-- An I2C start sends the address byte and reads one ack byte, whose low bit set means ACK (41_session_boundary.md R108). -/
def Obligations.I2cStartReadsItsAck : Prop :=
  ∀ (s : State) (address : BitVec 7) (dir : Direction) (a : Byte) (rest : List Delivery),
    Live s → s.host.rx = .byte a :: rest →
    exec (.hostI2cStart address dir) s
      = .next (exchanged s [0x73#8, (address.zeroExtend 8 <<< 1) ||| (if dir = .read then 1#8 else 0#8)] rest s.host.task
          [.started (if a.getLsbD 0 then .ack else .nak)] [])

/-- A write chunk on its own: its command, its bytes, one ack byte; the bytes enter the CRC on ACK, or under `always`
(41_session_boundary.md R110; that a lone chunk is a one-chunk write, and that the ack polarity is a parameter, are the model's,
notes/assumptions/13.md, 25.md). -/
def Obligations.WriteChunkSendsAndReadsItsAck : Prop :=
  ∀ (s : State) (n : BitVec 6) (data : List Byte) (a : Byte) (rest : List Delivery),
    Live s → s.host.task = .idle → s.host.rx = .byte a :: rest →
    exec (.hostWriteChunk n data) s
      = .next (exchanged s ((0xC0#8 + n.zeroExtend 8) :: data) rest .idle
          [.written (if a.getLsbD 0 = s.params.writeAckBit then .ack else .nak)]
          (if a.getLsbD 0 = s.params.writeAckBit ∨ s.params.writeNakCrc = .always then updateWords data else []))

/-- A read chunk on its own: its command, n bytes back, each of which enters the CRC (41_session_boundary.md R111). -/
def Obligations.ReadChunkReadsItsBytes : Prop :=
  ∀ (s : State) (n : BitVec 6) (bytes : List Byte) (rest : List Delivery),
    Live s → s.host.task = .idle → bytes.length = n.toNat + 1 → s.host.rx = delivered bytes rest →
    exec (.hostReadChunk n) s
      = .next (exchanged s [0x80#8 + n.zeroExtend 8] rest .idle [.data bytes] (updateWords bytes))

/-- A whole write of `bytes`: ceil(L/64) chunks, one ack byte each, ACK exactly if every chunk was acknowledged, and then (or
under `always`) the whole payload is issued to the CRC; an empty write sends nothing and is acknowledged
(41_session_boundary.md R110; the polarity as a parameter is the model's choice, notes/assumptions/25.md). -/
def Obligations.WriteProcedureSendsEveryChunk : Prop :=
  ∀ (s : State) (bytes acks : List Byte) (rest : List Delivery) (xs : List Input),
    s.Quiet → Live s → s.inputs = .op (.write bytes) :: xs → acks.length = (bytes.length + 63) / 64 →
    s.host.rx = delivered acks rest →
    Host.Core.run core (1 + acks.length) s
      = .next (exchanged { s with inputs := xs } (writeFrames acks.length bytes) rest .idle
          [.written (if acks.all (fun a => a.getLsbD 0 == s.params.writeAckBit) then .ack else .nak)]
          (if acks.all (fun a => a.getLsbD 0 == s.params.writeAckBit) ∨ s.params.writeNakCrc = .always
            then updateWords bytes else []))

/-- A whole read of `count` bytes under `remaining`, or of at most 64 bytes under `reference`: ceil(count/64) chunk commands of
the bytes left, every byte enters the CRC in order, and the bytes are returned; under `reference` a read of more than 64 bytes
is refused by name (41_session_boundary.md R111; short reads under `reference` are the model's reading,
notes/assumptions/6.md). -/
def Obligations.ReadProcedureReadsEveryChunk : Prop :=
  ∀ (s : State) (bytes : List Byte) (rest : List Delivery) (xs : List Input),
    s.Quiet → Live s → s.inputs = .op (.read bytes.length) :: xs → s.host.rx = delivered bytes rest →
    (s.params.readChunk = .remaining ∨ bytes.length ≤ 64 →
      Host.Core.run core (1 + (bytes.length + 63) / 64 + bytes.length) s
        = .next
          { exchanged { s with inputs := xs } (readCommands ((bytes.length + 63) / 64) bytes.length) rest .idle
              [.data bytes] [] with
            block := { s.block with crc := bytes.foldl (fun c b => crcShift c b) s.block.crc }
            responses := s.responses ++ List.replicate bytes.length ⟨0#3, 0x0000#16, []⟩ }) ∧
    (s.params.readChunk = .reference → 64 < bytes.length →
      step s = .refused (.referenceReadChunking bytes.length))

/-- A connect: four probes and a status query; with every echo right and a record that parses, CRC_SEED opens the session; a
record that does not parse gives StatusParseError, a wrong echo or a failed read of one HandshakeFailed, without a request to
the block (41_session_boundary.md R104). One probe a step, a failed echo read without a tear-down, how bytes are parsed, and
the channel left open by a failure are the model's: notes/assumptions/12.md, 10.md, 7.md, 30.md. -/
def Obligations.ConnectSeedsTheBlock : Prop :=
  ∀ (s : State) (xs : List Input), s.Quiet → s.block.capActive = false → s.host.channel = .clear →
    s.host.linkDown = false → s.inputs = .op .connect :: xs →
    (∀ (record : List Byte) (rest : List Delivery), record.length = 80 →
      s.host.rx = delivered ([0x41#8, 0x0D#8, 0x0A#8, 0xFF#8] ++ record) rest →
      match Config.parseStatusCrc record with
      | some v =>
        Host.Core.run core 7 s
          = .next (answered
              (exchanged { s with inputs := xs }
                [0x65#8, 0x41#8, 0x65#8, 0x0D#8, 0x65#8, 0x0A#8, 0x65#8, 0xFF#8, 0x3F#8] rest .idle [.session v] [])
              { s.block with crc := v, connected := true } 0x0000#16 [])
      | none =>
        Host.Core.run core 6 s
          = .next (exchanged { s with inputs := xs }
              [0x65#8, 0x41#8, 0x65#8, 0x0D#8, 0x65#8, 0x0A#8, 0x65#8, 0xFF#8, 0x3F#8] rest .idle
              [.statusParseError] [])) ∧
    (∀ (k : Nat) (e : Byte) (rest : List Delivery), k < 4 → e ≠ [0x41#8, 0x0D#8, 0x0A#8, 0xFF#8].getD k 0#8 →
      s.host.rx = delivered ([0x41#8, 0x0D#8, 0x0A#8, 0xFF#8].take k ++ [e]) rest →
      Host.Core.run core (k + 2) s
        = .next (exchanged { s with inputs := xs }
            (([0x41#8, 0x0D#8, 0x0A#8, 0xFF#8].take (k + 1)).flatMap (fun t => [0x65#8, t])) rest .idle
            [.handshakeFailed] [])) ∧
    (∀ (k : Nat) (rest : List Delivery), k < 4 →
      s.host.rx = delivered ([0x41#8, 0x0D#8, 0x0A#8, 0xFF#8].take k) (.failure :: rest) →
      Host.Core.run core (k + 2) s
        = .next (exchanged { s with inputs := xs }
            (([0x41#8, 0x0D#8, 0x0A#8, 0xFF#8].take (k + 1)).flatMap (fun t => [0x65#8, t])) rest .idle
            [.handshakeFailed] []))

/-- A read whose bytes have not all come, with nothing but bytes in the channel, waits: the machine stays as it is, unless the
reset signal, the host's exit or the cancel of a capture is next (what these do there is in ResetSignalReachesOnlyTheBlock and
CancelDiscardsThePartialGroup; that any other close stays queued is notes/assumptions/29.md). Once they have come the read ends with
the effect of its reply, and whatever comes later (a reply, a failure, an expired deadline) ends a command as it would have
ended it in the command's own step (41_session_boundary.md R116, 70_reset_and_hazards.md R188; that a read may go on over
several steps is the model's form, notes/assumptions/9.md). -/
def Obligations.ReadWaitsForItsReply : Prop :=
  (∀ (s : State) (a : Await) (bytes : List Byte),
    s.host.awaiting = some a → s.host.rx = delivered bytes [] → bytes.length < a.count →
    s.inputs.head? ≠ some .reset → s.inputs.head? ≠ some .exit →
    (a.purpose = .captureByte → s.inputs.head? ≠ some (.op .close)) →
    step s = .next s) ∧
  (∀ (s : State) (a : Await) (bytes : List Byte) (rest : List Delivery),
    s.host.awaiting = some a → s.host.rx = delivered bytes rest → bytes.length = a.count →
    step s = .next (replyArrived a.purpose bytes { s with host := { s.host with rx := rest, awaiting := none } })) ∧
  (∀ (i : Instr) (s t : State) (a : Await) (more : List Delivery),
    onBlock i = false → s.host.awaiting = none → exec i s = .next t → t.host.awaiting = some a →
    replyOf a (withMore more t) ≠ .short → step (withMore more t) = exec i (withMore more s))

/-- A transport failure, on a write or on a read that is neither a probe's nor a bus reset's, is TransportError: DISCONNECT
is issued, the channel is closed, and the exchange and the procedure are abandoned, inside a connect too
(41_session_boundary.md R116, 60_exceptions.md R166; inside a connect: notes/assumptions/10.md). -/
def Obligations.TransportErrorTearsDown : Prop :=
  (∀ (s : State) (i : Instr), onBlock i = false → s.block.capActive = false → s.host.channel = .clear →
    mayBeSent i s → s.host.linkDown = true → exec i s = .next (tornDown s)) ∧
  (∀ (s : State) (a : Await) (bytes : List Byte) (rest : List Delivery),
    s.host.awaiting = some a → s.host.rx = delivered bytes (.failure :: rest) → bytes.length < a.count →
    (∀ test, a.purpose ≠ .echo test) → a.purpose ≠ .busReset →
    step s = .next (tornDown s))

/-- An expired deadline ends a read where a deadline is set: a probe's as a short read with HandshakeFailed, a bus reset's with
levels (0,0), any other with Timeout; it is no event where none is set (00_scope.md R9, 60_exceptions.md R166,
41_session_boundary.md R104, R107; notes/assumptions/11.md). -/
def Obligations.DeadlineEndsOnlyTimedReads : Prop :=
  ∀ (s : State) (a : Await) (bytes : List Byte) (rest : List Delivery),
    s.host.awaiting = some a → s.host.rx = delivered bytes (.deadline :: rest) → bytes.length < a.count →
    (∀ d, s.params.timeout = some d →
      (∀ test, a.purpose = .echo test → step s = .next (exchanged s [] rest .idle [.handshakeFailed] [])) ∧
      (a.purpose = .busReset → step s = .next (exchanged s [] rest s.host.task [.levels false false] [])) ∧
      ((∀ test, a.purpose ≠ .echo test) → a.purpose ≠ .busReset →
        step s = .next (exchanged s [] rest .idle [.timeout] []))) ∧
    (s.params.timeout = none →
      replyOf a s = replyOf a { s with host := { s.host with rx := delivered bytes rest } })

/-- A disconnect (a close) and the exit of the host's process end the session and capture mode in two steps: every register but
`err_flags` is cleared, the partial group gives no event, and the channel's bytes are dropped. Both are taken with nothing in
progress, a close also while the host waits for a stream byte, and an exit while the host is blocked in a read of any kind,
which it ends (41_session_boundary.md R100; 42_capture_decoder.md R141; 70_reset_and_hazards.md R187; when each is taken is
the model's choice, notes/assumptions/29.md, and so is that `err_flags` outlives an exit, 31.md; the emptied channel is its form
of closing it, 14.md). -/
def Obligations.CancelDiscardsThePartialGroup : Prop :=
  ∀ (s : State) (x : Input) (xs : List Input), s.issued = [] → s.inputs = x :: xs → x = .op .close ∨ x = .exit →
    ((s.host.awaiting = none ∧ s.host.task = .idle) ∨
      (∃ a bytes, s.host.awaiting = some a ∧ s.host.rx = delivered bytes [] ∧ bytes.length < a.count ∧
        (x = .exit ∨ a.purpose = .captureByte))) →
    Host.Core.run core 2 s
      = .next (answered
          { s with
            inputs := xs
            host :=
              { s.host with
                rx := [], channel := .clear, awaiting := none, task := .idle
                results := s.host.results ++ [.closed] } }
          (disconnected s.block) 0x0000#16 [])

/-- Chunk commands stay in their ranges: 0x80 to 0xBF for reads and 0xC0 to 0xFF for writes, with the length field in bits 5:0
(30_encoding.md R64). -/
def Obligations.ChunkCommandsKeepTheirRanges : Prop :=
  ∀ (n : BitVec 6) (data rest : List Byte), data.length = n.toNat + 1 →
    encode (.hostReadChunk n) = .command [0b10#2 ++ n] ∧
    encode (.hostWriteChunk n data) = .command ((0b11#2 ++ n) :: data) ∧
    decodeCommand ((0b10#2 ++ n) :: rest) = .ok (.hostReadChunk n, rest) ∧
    decodeCommand ((0b11#2 ++ n) :: (data ++ rest)) = .ok (.hostWriteChunk n data, rest)

/-- The pseudo-requests assemble to their expansions (30_encoding.md R69). -/
def Obligations.PseudoRequestsExpand : Prop :=
  ∀ (v : Word) (bytes : List Byte),
    assembleRequest "CONNECT".toList [v.toNat] = some [0x1#4 ++ v] ∧
    assembleRequest "CRC_UPDATE".toList (bytes.map BitVec.toNat) = some (updateWords bytes) ∧
    assembleRequest "CAP_STREAM".toList (bytes.map BitVec.toNat) = some (bytes.map (fun b => 0x800#12 ++ b)) ∧
    assembleRequest "CAP_CANCEL".toList [] = some [0x90000#20]
end

