-- ==== Sys2Proof/Laws/State.lean ====
section
/-! SUPPORT. One lemma per field per update, true by rfl: what the shared operations do to each field of State. -/

namespace Sys2Proof.Machine

variable (s : State) (b : Block)

/-! ## Responses -/

@[simp] theorem respond_params (c d e) : (respond c d e s).params = s.params := rfl
@[simp] theorem respond_block (c d e) : (respond c d e s).block = s.block := rfl
@[simp] theorem respond_issued (c d e) : (respond c d e s).issued = s.issued := rfl
@[simp] theorem respond_inputs (c d e) : (respond c d e s).inputs = s.inputs := rfl
@[simp] theorem respond_responses (c d e) : (respond c d e s).responses = s.responses ++ [⟨c, d, e⟩] := rfl
@[simp] theorem respond_host (c d e) : (respond c d e s).host = s.host := rfl

/-! ## Flags -/

@[simp] theorem setFlag_crc (i) : (setFlag i b).crc = b.crc := rfl
@[simp] theorem setFlag_connected (i) : (setFlag i b).connected = b.connected := rfl
@[simp] theorem setFlag_capActive (i) : (setFlag i b).capActive = b.capActive := rfl
@[simp] theorem setFlag_pendingStart (i) : (setFlag i b).pendingStart = b.pendingStart := rfl
@[simp] theorem setFlag_accValue (i) : (setFlag i b).accValue = b.accValue := rfl
@[simp] theorem setFlag_accCount (i) : (setFlag i b).accCount = b.accCount := rfl
@[simp] theorem setFlag_errFlags (i) : (setFlag i b).errFlags = b.errFlags ||| (1#8 <<< i) := rfl

/-! ## The driver's operations -/

@[simp] theorem report_params (r) : (report r s).params = s.params := rfl
@[simp] theorem report_block (r) : (report r s).block = s.block := rfl
@[simp] theorem report_issued (r) : (report r s).issued = s.issued := rfl
@[simp] theorem report_inputs (r) : (report r s).inputs = s.inputs := rfl
@[simp] theorem report_responses (r) : (report r s).responses = s.responses := rfl
@[simp] theorem report_tx (r) : (report r s).host.tx = s.host.tx := rfl
@[simp] theorem report_rx (r) : (report r s).host.rx = s.host.rx := rfl
@[simp] theorem report_linkDown (r) : (report r s).host.linkDown = s.host.linkDown := rfl
@[simp] theorem report_channel (r) : (report r s).host.channel = s.host.channel := rfl
@[simp] theorem report_awaiting (r) : (report r s).host.awaiting = s.host.awaiting := rfl
@[simp] theorem report_task (r) : (report r s).host.task = s.host.task := rfl
@[simp] theorem report_results (r) : (report r s).host.results = s.host.results ++ [r] := rfl

@[simp] theorem setTask_params (t) : (setTask t s).params = s.params := rfl
@[simp] theorem setTask_block (t) : (setTask t s).block = s.block := rfl
@[simp] theorem setTask_issued (t) : (setTask t s).issued = s.issued := rfl
@[simp] theorem setTask_inputs (t) : (setTask t s).inputs = s.inputs := rfl
@[simp] theorem setTask_responses (t) : (setTask t s).responses = s.responses := rfl
@[simp] theorem setTask_tx (t) : (setTask t s).host.tx = s.host.tx := rfl
@[simp] theorem setTask_rx (t) : (setTask t s).host.rx = s.host.rx := rfl
@[simp] theorem setTask_linkDown (t) : (setTask t s).host.linkDown = s.host.linkDown := rfl
@[simp] theorem setTask_channel (t) : (setTask t s).host.channel = s.host.channel := rfl
@[simp] theorem setTask_awaiting (t) : (setTask t s).host.awaiting = s.host.awaiting := rfl
@[simp] theorem setTask_task (t) : (setTask t s).host.task = t := rfl
@[simp] theorem setTask_results (t) : (setTask t s).host.results = s.host.results := rfl

@[simp] theorem issue_params (is) : (issue is s).params = s.params := rfl
@[simp] theorem issue_block (is) : (issue is s).block = s.block := rfl
@[simp] theorem issue_issued (is) : (issue is s).issued = s.issued ++ is.map encodeRequest := rfl
@[simp] theorem issue_inputs (is) : (issue is s).inputs = s.inputs := rfl
@[simp] theorem issue_responses (is) : (issue is s).responses = s.responses := rfl
@[simp] theorem issue_host (is) : (issue is s).host = s.host := rfl

@[simp] theorem beginStream_params : (beginStream s).params = s.params := rfl
@[simp] theorem beginStream_block : (beginStream s).block = s.block := rfl
@[simp] theorem beginStream_issued : (beginStream s).issued = s.issued := rfl
@[simp] theorem beginStream_inputs : (beginStream s).inputs = s.inputs := rfl
@[simp] theorem beginStream_responses : (beginStream s).responses = s.responses := rfl
@[simp] theorem beginStream_tx : (beginStream s).host.tx = s.host.tx := rfl
@[simp] theorem beginStream_rx : (beginStream s).host.rx = s.host.rx := rfl
@[simp] theorem beginStream_linkDown : (beginStream s).host.linkDown = s.host.linkDown := rfl
@[simp] theorem beginStream_channel : (beginStream s).host.channel = .stream := rfl
@[simp] theorem beginStream_awaiting : (beginStream s).host.awaiting = s.host.awaiting := rfl
@[simp] theorem beginStream_task : (beginStream s).host.task = s.host.task := rfl
@[simp] theorem beginStream_results : (beginStream s).host.results = s.host.results := rfl

@[simp] theorem noteRequest_params (w) : (noteRequest w s).params = s.params := by unfold noteRequest; split <;> rfl
@[simp] theorem noteRequest_block (w) : (noteRequest w s).block = s.block := by unfold noteRequest; split <;> rfl
@[simp] theorem noteRequest_issued (w) : (noteRequest w s).issued = s.issued := by unfold noteRequest; split <;> rfl
@[simp] theorem noteRequest_inputs (w) : (noteRequest w s).inputs = s.inputs := by unfold noteRequest; split <;> rfl
@[simp] theorem noteRequest_responses (w) : (noteRequest w s).responses = s.responses := by unfold noteRequest; split <;> rfl
@[simp] theorem noteRequest_tx (w) : (noteRequest w s).host.tx = s.host.tx := by unfold noteRequest; split <;> rfl
@[simp] theorem noteRequest_rx (w) : (noteRequest w s).host.rx = s.host.rx := by unfold noteRequest; split <;> rfl
@[simp] theorem noteRequest_linkDown (w) : (noteRequest w s).host.linkDown = s.host.linkDown := by unfold noteRequest; split <;> rfl
@[simp] theorem noteRequest_awaiting (w) : (noteRequest w s).host.awaiting = s.host.awaiting := by unfold noteRequest; split <;> rfl
@[simp] theorem noteRequest_task (w) : (noteRequest w s).host.task = s.host.task := by unfold noteRequest; split <;> rfl
@[simp] theorem noteRequest_results (w) : (noteRequest w s).host.results = s.host.results := by unfold noteRequest; split <;> rfl

@[simp] theorem closeChannel_params : (closeChannel s).params = s.params := rfl
@[simp] theorem closeChannel_block : (closeChannel s).block = s.block := rfl
@[simp] theorem closeChannel_issued : (closeChannel s).issued = s.issued := rfl
@[simp] theorem closeChannel_inputs : (closeChannel s).inputs = s.inputs := rfl
@[simp] theorem closeChannel_responses : (closeChannel s).responses = s.responses := rfl
@[simp] theorem closeChannel_tx : (closeChannel s).host.tx = s.host.tx := rfl
@[simp] theorem closeChannel_rx : (closeChannel s).host.rx = [] := rfl
@[simp] theorem closeChannel_linkDown : (closeChannel s).host.linkDown = s.host.linkDown := rfl
@[simp] theorem closeChannel_channel : (closeChannel s).host.channel = .clear := rfl
@[simp] theorem closeChannel_awaiting : (closeChannel s).host.awaiting = none := rfl
@[simp] theorem closeChannel_task : (closeChannel s).host.task = .idle := rfl
@[simp] theorem closeChannel_results : (closeChannel s).host.results = s.host.results := rfl

@[simp] theorem endRead_params (rx) : (endRead rx s).params = s.params := rfl
@[simp] theorem endRead_block (rx) : (endRead rx s).block = s.block := rfl
@[simp] theorem endRead_issued (rx) : (endRead rx s).issued = s.issued := rfl
@[simp] theorem endRead_inputs (rx) : (endRead rx s).inputs = s.inputs := rfl
@[simp] theorem endRead_responses (rx) : (endRead rx s).responses = s.responses := rfl
@[simp] theorem endRead_tx (rx) : (endRead rx s).host.tx = s.host.tx := rfl
@[simp] theorem endRead_rx (rx) : (endRead rx s).host.rx = rx := rfl
@[simp] theorem endRead_linkDown (rx) : (endRead rx s).host.linkDown = s.host.linkDown := rfl
@[simp] theorem endRead_channel (rx) : (endRead rx s).host.channel = s.host.channel := rfl
@[simp] theorem endRead_awaiting (rx) : (endRead rx s).host.awaiting = none := rfl
@[simp] theorem endRead_task (rx) : (endRead rx s).host.task = s.host.task := rfl
@[simp] theorem endRead_results (rx) : (endRead rx s).host.results = s.host.results := rfl

@[simp] theorem resetSignal_block : (resetSignal s).block = Block.reset := rfl
@[simp] theorem resetSignal_params : (resetSignal s).params = s.params := rfl
@[simp] theorem resetSignal_issued : (resetSignal s).issued = s.issued := rfl
@[simp] theorem resetSignal_inputs : (resetSignal s).inputs = s.inputs := rfl
@[simp] theorem resetSignal_responses : (resetSignal s).responses = s.responses := rfl
@[simp] theorem resetSignal_host : (resetSignal s).host = s.host := rfl

end Sys2Proof.Machine
end

