-- ==== Sys2Proof/Laws/Bridge.lean ====
section
/-! SUPPORT. What the driver's operations can do, said once: they never touch the block's registers, its responses, the
inputs or the parameters, they only add to the logs, and a read either ends or stays. -/

namespace Sys2Proof.Machine

/-- What every operation of the driver keeps, and what it only adds to. -/
structure DriverMove (s t : State) : Prop where
  params : t.params = s.params
  block : t.block = s.block
  inputs : t.inputs = s.inputs
  responses : t.responses = s.responses
  linkDown : t.host.linkDown = s.host.linkDown
  tx : t.host.tx = s.host.tx
  results : ∃ rs, t.host.results = s.host.results ++ rs
  issued : ∃ ws, t.issued = s.issued ++ ws

theorem DriverMove.refl (s : State) : DriverMove s s :=
  ⟨rfl, rfl, rfl, rfl, rfl, rfl, ⟨[], by simp⟩, ⟨[], by simp⟩⟩

theorem DriverMove.trans {s t u : State} (h : DriverMove s t) (k : DriverMove t u) : DriverMove s u := by
  obtain ⟨p, b, i, r, l, x, ⟨rs, hr⟩, ⟨ws, hw⟩⟩ := h
  obtain ⟨p', b', i', r', l', x', ⟨rs', hr'⟩, ⟨ws', hw'⟩⟩ := k
  exact ⟨p'.trans p, b'.trans b, i'.trans i, r'.trans r, l'.trans l, x'.trans x,
    ⟨rs ++ rs', by rw [hr', hr, List.append_assoc]⟩, ⟨ws ++ ws', by rw [hw', hw, List.append_assoc]⟩⟩

theorem report_move (r : HostResult) (s : State) : DriverMove s (report r s) :=
  ⟨rfl, rfl, rfl, rfl, rfl, rfl, ⟨[r], rfl⟩, ⟨[], by simp⟩⟩

theorem setTask_move (t : Task) (s : State) : DriverMove s (setTask t s) :=
  ⟨rfl, rfl, rfl, rfl, rfl, rfl, ⟨[], by simp⟩, ⟨[], by simp⟩⟩

theorem finish_move (r : HostResult) (s : State) : DriverMove s (finish r s) :=
  (setTask_move .idle s).trans (report_move r _)

theorem issue_move (is : List Instr) (s : State) : DriverMove s (issue is s) :=
  ⟨rfl, rfl, rfl, rfl, rfl, rfl, ⟨[], by simp⟩, ⟨is.map encodeRequest, rfl⟩⟩

theorem issueCrcUpdate_move (bytes : List Byte) (s : State) : DriverMove s (issueCrcUpdate bytes s) := issue_move _ s

theorem closeChannel_move (s : State) : DriverMove s (closeChannel s) :=
  ⟨rfl, rfl, rfl, rfl, rfl, rfl, ⟨[], by simp⟩, ⟨[], by simp⟩⟩

theorem endRead_move (rest : List Delivery) (s : State) : DriverMove s (endRead rest s) :=
  ⟨rfl, rfl, rfl, rfl, rfl, rfl, ⟨[], by simp⟩, ⟨[], by simp⟩⟩

theorem tearDown_move (r : HostResult) (s : State) : DriverMove s (tearDown r s) :=
  ((closeChannel_move s).trans (report_move r _)).trans (issue_move _ _)

theorem transportFailed_move (s : State) : DriverMove s (transportFailed s) := tearDown_move _ s

theorem noteRequest_move (w : RequestWord) (s : State) : DriverMove s (noteRequest w s) := by
  unfold noteRequest
  split
  · exact ⟨rfl, rfl, rfl, rfl, rfl, rfl, ⟨[], by simp⟩, ⟨[], by simp⟩⟩
  · exact .refl s

/-- Every request but CAP_ENTER leaves the state as it is. -/
theorem noteRequest_of_other {w : RequestWord} (h : w ≠ encodeRequest .capEnter) (s : State) : noteRequest w s = s := by
  simp [noteRequest, h]

/-- A channel without a stream stays one. -/
theorem noteRequest_of_clear (w : RequestWord) {s : State} (h : s.host.channel = .clear) : noteRequest w s = s := by
  simp [noteRequest, h]

theorem beginStream_move (s : State) : DriverMove s (beginStream s) :=
  ⟨rfl, rfl, rfl, rfl, rfl, rfl, ⟨[], by simp⟩, ⟨[], by simp⟩⟩

theorem echoArrived_move (test : Byte) (bytes : List Byte) (s : State) : DriverMove s (echoArrived test bytes s) := by
  unfold echoArrived
  split
  · split
    · exact .refl s
    · exact report_move _ s
  · exact finish_move _ s

theorem statusArrived_move (bytes : List Byte) (s : State) : DriverMove s (statusArrived bytes s) := by
  unfold statusArrived
  split
  · exact finish_move _ s
  · split
    · exact (finish_move _ s).trans (issue_move _ _)
    · exact report_move _ s

theorem finishWrite_move (payload : List Byte) (allAck : Bool) (s : State) :
    DriverMove s (finishWrite payload allAck s) := by
  unfold finishWrite
  refine .trans ?_ (finish_move _ _)
  split
  · exact issueCrcUpdate_move payload s
  · exact .refl s

theorem writeAckArrived_move (data : List Byte) (a : Byte) (s : State) :
    DriverMove s (writeAckArrived data a s) := by
  unfold writeAckArrived
  split
  · exact finishWrite_move _ _ s
  · exact setTask_move _ s

theorem readDataArrived_move (bytes : List Byte) (s : State) : DriverMove s (readDataArrived bytes s) := by
  unfold readDataArrived
  split
  · exact (finish_move _ s).trans (issueCrcUpdate_move _ _)
  · exact (setTask_move _ s).trans (issueCrcUpdate_move _ _)

theorem oneByte_move {k : Byte → State → State} (hk : ∀ b s, DriverMove s (k b s)) (bytes : List Byte) (s : State) :
    DriverMove s (oneByte k bytes s) := by
  unfold oneByte
  split
  · exact .refl s
  · exact hk _ s

theorem replyArrived_move (p : Purpose) (bytes : List Byte) (s : State) : DriverMove s (replyArrived p bytes s) := by
  cases p with
  | echo test => exact echoArrived_move test bytes s
  | status => exact statusArrived_move bytes s
  | scan => exact report_move _ s
  | busReset => exact oneByte_move (fun b s => report_move _ s) bytes s
  | startAck => exact oneByte_move (fun b s => report_move _ s) bytes s
  | writeAck data => exact oneByte_move (writeAckArrived_move data) bytes s
  | readData => exact readDataArrived_move bytes s
  | captureByte => exact oneByte_move (fun b s => issue_move _ s) bytes s

theorem readFailed_move (p : Purpose) (s : State) : DriverMove s (readFailed p s) := by
  cases p <;> first | exact finish_move _ s | exact report_move _ s | exact transportFailed_move s

theorem readTimedOut_move (p : Purpose) (s : State) : DriverMove s (readTimedOut p s) := by
  cases p <;> first | exact finish_move _ s | exact report_move _ s

theorem resumeRead_move (a : Await) (s : State) : DriverMove s (resumeRead a s) := by
  unfold resumeRead
  split
  · exact .refl s
  · exact (endRead_move _ s).trans (replyArrived_move _ _ _)
  · exact (endRead_move _ s).trans (readFailed_move _ _)
  · exact (endRead_move _ s).trans (readTimedOut_move _ _)

/-! ## The gates of a command -/

theorem whenChannelFree_of_free (k : State → Result) {s : State} (h : s.block.capActive = false) :
    whenChannelFree k s = k s := by simp [whenChannelFree, h]

theorem whenChannelFree_of_capturing (k : State → Result) {s : State} (h : s.block.capActive = true) :
    whenChannelFree k s = turnAway .captureActive s := by simp [whenChannelFree, h]

theorem whenNotAbandoned_of_fresh (k : State → Result) {s : State} (h : s.host.channel = .clear) :
    whenNotAbandoned k s = k s := by simp [whenNotAbandoned, h]

theorem whenNotAbandoned_of_stream (k : State → Result) {s : State} (h : s.host.channel ≠ .clear) :
    whenNotAbandoned k s = turnAway .channelAbandoned s := by
  unfold whenNotAbandoned
  split
  · contradiction
  all_goals rfl

theorem whenOpen_of_open (k : State → Result) {s : State} (hc : s.block.capActive = false)
    (hs : s.host.channel = .clear) : whenOpen k s = k s := by
  rw [whenOpen, whenChannelFree_of_free _ hc, whenNotAbandoned_of_fresh _ hs]

theorem whenOpen_of_capturing (k : State → Result) {s : State} (h : s.block.capActive = true) :
    whenOpen k s = turnAway .captureActive s := whenChannelFree_of_capturing _ h

theorem whenOpen_of_abandoned (k : State → Result) {s : State} (hc : s.block.capActive = false)
    (hs : s.host.channel ≠ .clear) : whenOpen k s = turnAway .channelAbandoned s := by
  rw [whenOpen, whenChannelFree_of_free _ hc, whenNotAbandoned_of_stream _ hs]

theorem whenLive_of_session (k : State → Result) {s : State} (hc : s.block.capActive = false)
    (h : s.block.connected = true) (hs : s.host.channel = .clear) : whenLive k s = k s := by
  simp [whenLive, whenChannelFree, whenNotAbandoned, hc, h, hs]

theorem whenLive_of_abandoned (k : State → Result) {s : State} (hc : s.block.capActive = false)
    (h : s.block.connected = true) (hs : s.host.channel ≠ .clear) : whenLive k s = turnAway .channelAbandoned s := by
  rw [whenLive, whenChannelFree_of_free _ hc, if_pos h, whenNotAbandoned_of_stream _ hs]

theorem whenStreaming_of_own (k : State → Result) {s : State} (hc : s.block.capActive = true)
    (hs : s.host.channel ≠ .oldStream) : whenStreaming k s = k s := by
  unfold whenStreaming
  rw [if_pos hc]
  split
  · rfl
  · rfl
  · contradiction

theorem whenStreaming_of_old (k : State → Result) {s : State} (hc : s.block.capActive = true)
    (hs : s.host.channel = .oldStream) : whenStreaming k s = turnAway .channelAbandoned s := by
  simp [whenStreaming, hc, hs]

theorem whenStreaming_of_no_capture (k : State → Result) {s : State} (hc : s.block.capActive = false) :
    whenStreaming k s = turnAway .notCapturing s := by simp [whenStreaming, hc]

theorem whenLive_of_no_session (k : State → Result) {s : State} (hc : s.block.capActive = false)
    (h : s.block.connected = false) : whenLive k s = turnAway .notConnected s := by
  simp [whenLive, whenChannelFree, hc, h]

theorem whenLive_of_capturing (k : State → Result) {s : State} (h : s.block.capActive = true) :
    whenLive k s = turnAway .captureActive s := by simp [whenLive, whenChannelFree, h]

theorem writeExact_of_up (bytes : List Byte) (k : State → Result) {s : State} (h : s.host.linkDown = false) :
    writeExact bytes k s = k { s with host := { s.host with tx := s.host.tx ++ bytes } } := by simp [writeExact, h]

theorem writeExact_of_down (bytes : List Byte) (k : State → Result) {s : State} (h : s.host.linkDown = true) :
    writeExact bytes k s = .next (transportFailed s) := by simp [writeExact, h]

/-- What one bridge command does, whatever happens to it: an operation of the driver, after its bytes went out or not. -/
structure CommandMove (bytes : List Byte) (s t : State) : Prop where
  params : t.params = s.params
  block : t.block = s.block
  inputs : t.inputs = s.inputs
  responses : t.responses = s.responses
  linkDown : t.host.linkDown = s.host.linkDown
  tx : t.host.tx = s.host.tx ∨ t.host.tx = s.host.tx ++ bytes
  results : ∃ rs, t.host.results = s.host.results ++ rs
  issued : ∃ ws, t.issued = s.issued ++ ws

theorem DriverMove.command {s t : State} (bytes : List Byte) (h : DriverMove s t) : CommandMove bytes s t :=
  ⟨h.params, h.block, h.inputs, h.responses, h.linkDown, .inl h.tx, h.results, h.issued⟩

theorem whenChannelFree_move {bytes : List Byte} {k : State → Result}
    (hk : ∀ s t, k s = .next t → CommandMove bytes s t) {s t : State} (h : whenChannelFree k s = .next t) :
    CommandMove bytes s t := by
  unfold whenChannelFree at h
  split at h
  · cases h; exact (finish_move _ s).command bytes
  · exact hk s t h

theorem whenNotAbandoned_move {bytes : List Byte} {k : State → Result}
    (hk : ∀ s t, k s = .next t → CommandMove bytes s t) {s t : State} (h : whenNotAbandoned k s = .next t) :
    CommandMove bytes s t := by
  unfold whenNotAbandoned at h
  split at h
  · exact hk s t h
  all_goals cases h; exact (finish_move _ s).command bytes

theorem whenOpen_move {bytes : List Byte} {k : State → Result}
    (hk : ∀ s t, k s = .next t → CommandMove bytes s t) {s t : State} (h : whenOpen k s = .next t) :
    CommandMove bytes s t := whenChannelFree_move (fun _ _ h => whenNotAbandoned_move hk h) h

theorem whenLive_move {bytes : List Byte} {k : State → Result}
    (hk : ∀ s t, k s = .next t → CommandMove bytes s t) {s t : State} (h : whenLive k s = .next t) :
    CommandMove bytes s t := by
  refine whenChannelFree_move (fun s t h => ?_) h
  split at h
  · exact whenNotAbandoned_move hk h
  · cases h; exact (finish_move _ s).command bytes

theorem writeExact_move {bytes : List Byte} {k : State → Result} (hk : ∀ s t, k s = .next t → DriverMove s t)
    {s t : State} (h : writeExact bytes k s = .next t) : CommandMove bytes s t := by
  unfold writeExact at h
  split at h
  · cases h; exact (transportFailed_move s).command bytes
  · have m := hk _ t h
    exact ⟨m.params, m.block, m.inputs, m.responses, m.linkDown, .inr m.tx, m.results, m.issued⟩

theorem noReply_move {s t : State} (h : noReply s = .next t) : DriverMove s t := by
  cases h; exact report_move _ s

theorem readExact_move (count : Nat) (p : Purpose) {s t : State} (h : readExact count p s = .next t) :
    DriverMove s t := by
  cases h
  have m := resumeRead_move ⟨count, p⟩ { s with host := { s.host with awaiting := some ⟨count, p⟩ } }
  exact ⟨m.params, m.block, m.inputs, m.responses, m.linkDown, m.tx, m.results, m.issued⟩

/-! ## How far a read gets -/

/-- A read of bytes that are all there takes exactly them. -/
theorem takeReply_done (deadline : Bool) (bytes : List Byte) (rest : List Delivery) :
    takeReply deadline bytes.length (bytes.map .byte ++ rest) = .done bytes rest := by
  induction bytes with
  | nil => cases rest <;> rfl
  | cons b bs ih => simp only [List.length_cons, List.map_cons, List.cons_append, takeReply, ih, Reply.push]

/-- A read takes its first bytes off and goes on with what is behind them. -/
theorem takeReply_append (deadline : Bool) (bytes : List Byte) (n : Nat) (rest : List Delivery) :
    takeReply deadline (bytes.length + n) (bytes.map .byte ++ rest)
      = bytes.foldr Reply.push (takeReply deadline n rest) := by
  induction bytes with
  | nil => simp
  | cons b bs ih =>
    simp only [List.length_cons, List.map_cons, List.cons_append, List.foldr_cons, ← ih]
    rw [show bs.length + 1 + n = bs.length + n + 1 by omega]
    rfl

/-- Putting bytes in front of a reply that has no more of them changes nothing. -/
theorem foldr_push_short (bytes : List Byte) : bytes.foldr Reply.push .short = .short := by
  induction bytes with
  | nil => rfl
  | cons b bs ih => rw [List.foldr_cons, ih]; rfl

theorem foldr_push_failed (bytes : List Byte) (rest : List Delivery) :
    bytes.foldr Reply.push (.failed rest) = .failed rest := by
  induction bytes with
  | nil => rfl
  | cons b bs ih => rw [List.foldr_cons, ih]; rfl

theorem foldr_push_timedOut (bytes : List Byte) (rest : List Delivery) :
    bytes.foldr Reply.push (.timedOut rest) = .timedOut rest := by
  induction bytes with
  | nil => rfl
  | cons b bs ih => rw [List.foldr_cons, ih]; rfl

/-- A read of more bytes than have come is short. -/
theorem takeReply_short (deadline : Bool) {bytes : List Byte} {n : Nat} (h : bytes.length < n) :
    takeReply deadline n (bytes.map .byte) = .short := by
  obtain ⟨k, rfl⟩ : ∃ k, n = bytes.length + (k + 1) := ⟨n - bytes.length - 1, by omega⟩
  have e := takeReply_append deadline bytes (k + 1) []
  rwa [List.append_nil, takeReply, foldr_push_short] at e

/-- A read that meets a failure before its last byte fails. -/
theorem takeReply_failed (deadline : Bool) {bytes : List Byte} {n : Nat} (rest : List Delivery) (h : bytes.length < n) :
    takeReply deadline n (bytes.map .byte ++ .failure :: rest) = .failed rest := by
  obtain ⟨k, rfl⟩ : ∃ k, n = bytes.length + (k + 1) := ⟨n - bytes.length - 1, by omega⟩
  rw [takeReply_append, takeReply, foldr_push_failed]

/-- A read that meets an expired deadline before its last byte times out. -/
theorem takeReply_timedOut {bytes : List Byte} {n : Nat} (rest : List Delivery) (h : bytes.length < n) :
    takeReply true n (bytes.map .byte ++ .deadline :: rest) = .timedOut rest := by
  obtain ⟨k, rfl⟩ : ∃ k, n = bytes.length + (k + 1) := ⟨n - bytes.length - 1, by omega⟩
  rw [takeReply_append, takeReply, if_pos rfl, foldr_push_timedOut]

/-- Without a deadline an expired one is passed over. -/
theorem takeReply_no_deadline {bytes : List Byte} {n : Nat} (rest : List Delivery) (h : bytes.length < n) :
    takeReply false n (bytes.map .byte ++ .deadline :: rest) = takeReply false n (bytes.map .byte ++ rest) := by
  obtain ⟨k, rfl⟩ : ∃ k, n = bytes.length + (k + 1) := ⟨n - bytes.length - 1, by omega⟩
  rw [takeReply_append, takeReply_append, takeReply]
  simp

/-! ## Nothing that ends a read starts another -/

theorem replyArrived_awaiting (p : Purpose) (bytes : List Byte) (s : State) :
    (replyArrived p bytes s).host.awaiting = s.host.awaiting := by
  cases p <;>
    simp only [replyArrived, echoArrived, statusArrived, oneByte, writeAckArrived, finishWrite, readDataArrived,
      issueCrcUpdate, busResetArrived, finish] <;>
    (repeat' split) <;> simp

theorem tearDown_awaiting (r : HostResult) (s : State) : (tearDown r s).host.awaiting = none := rfl

/-- A read that ends has the number of bytes asked for. -/
theorem takeReply_done_length {deadline : Bool} {n : Nat} {rx rest : List Delivery} {bytes : List Byte}
    (h : takeReply deadline n rx = .done bytes rest) : bytes.length = n := by
  induction rx generalizing n bytes rest with
  | nil => cases n <;> simp_all [takeReply]
  | cons d rx ih =>
    cases n with
    | zero => simp_all [takeReply]
    | succ n =>
      cases d with
      | byte b =>
        simp only [takeReply] at h
        cases hr : takeReply deadline n rx with
        | done bs r =>
          rw [hr] at h
          simp only [Reply.push, Reply.done.injEq] at h
          rw [← h.1, List.length_cons, ih hr]
        | short => rw [hr] at h; cases h
        | failed r => rw [hr] at h; cases h
        | timedOut r => rw [hr] at h; cases h
      | failure => cases h
      | deadline =>
        simp only [takeReply] at h
        split at h
        · cases h
        · exact ih h

end Sys2Proof.Machine
end

