-- ==== Sys2Proof/Laws/Checksum.lean ====
section
/-! SUPPORT. The CRC loop of 40_checksum.md R80 as a linear map: what its iterations do to an exclusive-or. -/

namespace Sys2Proof.Machine

@[simp] theorem crcBit_zero : crcBit 0#16 = 0#16 := by decide

@[simp] theorem crcBits_zero_steps (c : Word) : crcBits 0 c = c := rfl

theorem crcBits_succ (k : Nat) (c : Word) : crcBits (k + 1) c = crcBits k (crcBit c) := rfl

/-- One iteration distributes over exclusive-or. -/
theorem crcBit_xor (a b : Word) : crcBit (a ^^^ b) = crcBit a ^^^ crcBit b := by
  unfold crcBit
  cases ha : a.msb <;> cases hb : b.msb <;> simp [BitVec.msb_xor, ha, hb, BitVec.shiftLeft_xor_distrib]
  · exact (BitVec.xor_assoc _ _ _).symm ▸ rfl
  · rw [BitVec.xor_assoc, BitVec.xor_comm _ crcPoly, ← BitVec.xor_assoc, BitVec.xor_assoc]
  · rw [BitVec.xor_assoc, ← BitVec.xor_assoc crcPoly, BitVec.xor_comm crcPoly, BitVec.xor_assoc, BitVec.xor_self]
    simp

/-- `k` iterations distribute over exclusive-or. -/
theorem crcBits_xor (k : Nat) (a b : Word) : crcBits k (a ^^^ b) = crcBits k a ^^^ crcBits k b := by
  induction k generalizing a b with
  | zero => rfl
  | succ k ih => simp only [crcBits_succ, crcBit_xor, ih]

@[simp] theorem crcBits_zero (k : Nat) : crcBits k 0#16 = 0#16 := by
  induction k with
  | zero => rfl
  | succ k ih => rw [crcBits_succ, crcBit_zero, ih]

/-- Iterations add up. -/
theorem crcBits_add (j k : Nat) (c : Word) : crcBits (j + k) c = crcBits k (crcBits j c) := by
  induction j generalizing c with
  | zero => simp
  | succ j ih => rw [Nat.succ_add, crcBits_succ, crcBits_succ, ih]

/-- A value whose top `k` bits are zero is only shifted by `k` iterations. -/
theorem crcBits_of_lt (k : Nat) (hk : k ≤ 16) (c : Word) (h : c.toNat < 2 ^ (16 - k)) : crcBits k c = c <<< k := by
  induction k generalizing c with
  | zero => simp
  | succ k ih =>
    have top : c.msb = false := by
      have : 2 ^ (16 - (k + 1)) ≤ 2 ^ 15 := Nat.pow_le_pow_right (by omega) (by omega)
      rw [BitVec.msb_eq_decide]
      simp
      omega
    have twice : (c <<< 1).toNat < 2 ^ (16 - k) := by
      have : 2 ^ (16 - k) = 2 * 2 ^ (16 - (k + 1)) := by rw [← Nat.pow_succ']; congr 1; omega
      simp [BitVec.toNat_shiftLeft, Nat.shiftLeft_eq]
      omega
    rw [crcBits_succ, crcBit, if_neg (by simp [top]), ih (by omega) _ twice, ← BitVec.shiftLeft_add, Nat.add_comm]

end Sys2Proof.Machine
end

