-- ==== Sys2Proof/Laws/Decode.lean ====
section
/-! SUPPORT. The fields of a request word and the operand forms undo the building of a word. -/

namespace Sys2Proof.Machine

@[simp] theorem opField_requestWord (op : Nibble) (x : Word) : opField (requestWord op x) = op := by
  ext i hi
  rw [opField, BitVec.getElem_extractLsb', requestWord]
  refine (BitVec.getLsbD_append (x := op) (y := x)).trans ?_
  simpa using BitVec.getLsbD_eq_getElem hi

@[simp] theorem operandField_requestWord (op : Nibble) (x : Word) : operandField (requestWord op x) = x := by
  ext i hi
  rw [operandField, BitVec.getElem_extractLsb', requestWord]
  refine (BitVec.getLsbD_append (x := op) (y := x)).trans ?_
  simp [hi]

/-- A request word is its two fields. -/
@[simp] theorem requestWord_fields (w : RequestWord) : requestWord (opField w) (operandField w) = w := by
  ext i hi
  rw [← BitVec.getLsbD_eq_getElem, ← BitVec.getLsbD_eq_getElem, requestWord]
  refine (BitVec.getLsbD_append (x := opField w) (y := operandField w)).trans ?_
  unfold opField operandField
  by_cases h : i < 16
  · simp [h]
  · simp [h, show i - 16 < 4 by omega, show 16 + (i - 16) = i by omega]

@[simp] theorem operandB8_zeroExtend (b : Byte) : operandB8 (b.zeroExtend 16) = some b := by
  have high : (b.zeroExtend 16).extractLsb' 8 8 = 0#8 := by ext i hi; simp
  have low : (b.zeroExtend 16).extractLsb' 0 8 = b := by
    ext i hi
    simp [show i < 16 by omega, BitVec.getLsbD_eq_getElem hi]
  rw [operandB8, if_pos high, low]

@[simp] theorem operandN4_zeroExtend (n : Nibble) : operandN4 (n.zeroExtend 16) = some n := by
  have high : (n.zeroExtend 16).extractLsb' 4 12 = 0#12 := by ext i hi; simp
  have low : (n.zeroExtend 16).extractLsb' 0 4 = n := by
    ext i hi
    simp [show i < 16 by omega, BitVec.getLsbD_eq_getElem hi]
  rw [operandN4, if_pos high, low]

@[simp] theorem operandNone_zero : operandNone 0#16 = some () := rfl

end Sys2Proof.Machine
end

