-- ==== Sys2Proof/Laws/Dispatch.lean ====
section
/-! SUPPORT. Which meaning each instruction has: one lemma per arm of exec, true by rfl. -/

namespace Sys2Proof.Machine

variable (s : State)

@[simp] theorem exec_crcSeed (v : Word) : exec (.crcSeed v) s = execCrcSeed v s := rfl
@[simp] theorem exec_crcUpdateByte (b : Byte) : exec (.crcUpdateByte b) s = execCrcUpdateByte b s := rfl
@[simp] theorem exec_crcUpdateNibble (n : Nibble) : exec (.crcUpdateNibble n) s = execCrcUpdateNibble n s := rfl
@[simp] theorem exec_crcRead : exec .crcRead s = execCrcRead s := rfl
@[simp] theorem exec_crcCheck (v : Word) : exec (.crcCheck v) s = execCrcCheck v s := rfl
@[simp] theorem exec_capEnter : exec .capEnter s = execCapEnter s := rfl
@[simp] theorem exec_capSymbol (n : Nibble) : exec (.capSymbol n) s = execCapSymbol n s := rfl
@[simp] theorem exec_capByte (b : Byte) : exec (.capByte b) s = execCapByte b s := rfl
@[simp] theorem exec_disconnect : exec .disconnect s = execDisconnect s := rfl
@[simp] theorem exec_errRead : exec .errRead s = execErrRead s := rfl
@[simp] theorem exec_reservedOp0 (x : Word) : exec (.reservedOp0 x) s = execReservedOp0 x s := rfl
@[simp] theorem exec_reservedOpB (x : Word) : exec (.reservedOpB x) s = execReservedOpB x s := rfl
@[simp] theorem exec_reservedOpC (x : Word) : exec (.reservedOpC x) s = execReservedOpC x s := rfl
@[simp] theorem exec_reservedOpD (x : Word) : exec (.reservedOpD x) s = execReservedOpD x s := rfl
@[simp] theorem exec_reservedOpE (x : Word) : exec (.reservedOpE x) s = execReservedOpE x s := rfl
@[simp] theorem exec_reservedOpF (x : Word) : exec (.reservedOpF x) s = execReservedOpF x s := rfl
@[simp] theorem exec_symIdle : exec .symIdle s = execSymIdle s := rfl
@[simp] theorem exec_symStart : exec .symStart s = execSymStart s := rfl
@[simp] theorem exec_symStop : exec .symStop s = execSymStop s := rfl
@[simp] theorem exec_symReserved3 : exec .symReserved3 s = execSymReserved3 s := rfl
@[simp] theorem exec_symReserved4To7 (low : BitVec 2) : exec (.symReserved4To7 low) s = execSymReserved4To7 low s := rfl
@[simp] theorem exec_symData (d : BitVec 3) : exec (.symData d) s = execSymData d s := rfl
@[simp] theorem exec_hostMonitorOff : exec .hostMonitorOff s = execHostMonitorOff s := rfl
@[simp] theorem exec_hostStatus : exec .hostStatus s = execHostStatus s := rfl
@[simp] theorem exec_hostEnterCapture : exec .hostEnterCapture s = execHostEnterCapture s := rfl
@[simp] theorem exec_hostScan : exec .hostScan s = execHostScan s := rfl
@[simp] theorem exec_hostEchoProbe (test : Byte) : exec (.hostEchoProbe test) s = execHostEchoProbe test s := rfl
@[simp] theorem exec_hostMonitorOn : exec .hostMonitorOn s = execHostMonitorOn s := rfl
@[simp] theorem exec_hostI2cStop : exec .hostI2cStop s = execHostI2cStop s := rfl
@[simp] theorem exec_hostI2cStart (a : BitVec 7) (dir : Direction) : exec (.hostI2cStart a dir) s = execHostI2cStart a dir s := rfl
@[simp] theorem exec_hostBusReset : exec .hostBusReset s = execHostBusReset s := rfl
@[simp] theorem exec_hostReadChunk (n : BitVec 6) : exec (.hostReadChunk n) s = execHostReadChunk n s := rfl
@[simp] theorem exec_hostWriteChunk (n : BitVec 6) (data : List Byte) : exec (.hostWriteChunk n data) s = execHostWriteChunk n data s := rfl

end Sys2Proof.Machine
end

