-- ==== Sys2Proof/Laws/Ops.lean ====
section
/-! SUPPORT. What the state conditions of the requests and the raising of an error do, and what one symbol step can do. -/

namespace Sys2Proof.Machine

/-! ## Conditions of a request (60_exceptions.md R164) -/

theorem whenNotCapturing_of_free (k : State → Result) {s : State} (h : s.block.capActive = false) :
    whenNotCapturing k s = k s := by simp [whenNotCapturing, h]

theorem whenNotCapturing_of_capturing (k : State → Result) {s : State} (h : s.block.capActive = true) :
    whenNotCapturing k s = raiseError .captureBusy [] s := by simp [whenNotCapturing, h]

theorem whenInSession_of_session (k : State → Result) {s : State} (hc : s.block.capActive = false)
    (h : s.block.connected = true) : whenInSession k s = k s := by simp [whenInSession, whenNotCapturing, hc, h]

theorem whenInSession_of_no_session (k : State → Result) {s : State} (hc : s.block.capActive = false)
    (h : s.block.connected = false) : whenInSession k s = raiseError .notConnected [] s := by
  simp [whenInSession, whenNotCapturing, hc, h]

theorem whenInSession_of_capturing (k : State → Result) {s : State} (h : s.block.capActive = true) :
    whenInSession k s = raiseError .captureBusy [] s := by simp [whenInSession, whenNotCapturing, h]

theorem whenCapturing_of_capturing (k : State → Result) {s : State} (h : s.block.capActive = true) :
    whenCapturing k s = k s := by simp [whenCapturing, h]

theorem whenCapturing_of_free (k : State → Result) {s : State} (h : s.block.capActive = false) :
    whenCapturing k s = raiseError .notInCapture [] s := by simp [whenCapturing, h]

/-! ## One symbol step -/

/-- What a successful symbol step keeps: it writes the decoder's registers only. -/
structure DecoderMove (b c : Block) : Prop where
  crc : c.crc = b.crc
  connected : c.connected = b.connected
  capActive : c.capActive = b.capActive
  errFlags : c.errFlags = b.errFlags

theorem completeGroup_move (b : Block) : DecoderMove b (completeGroup b).1 := by
  unfold completeGroup
  split <;> exact ⟨rfl, rfl, rfl, rfl⟩

/-- A data symbol's step always succeeds: it appends, or appends and completes. -/
theorem stepData_cases (d : BitVec 3) (b : Block) :
    ((appendBits d b).accCount = 9#4 ∧ stepData d b = .ok (completeGroup (appendBits d b))) ∨
      ((appendBits d b).accCount ≠ 9#4 ∧ stepData d b = .ok (appendBits d b, none)) := by
  unfold stepData
  by_cases h : (appendBits d b).accCount = 9#4
  · exact .inl ⟨h, if_pos h⟩
  · exact .inr ⟨h, if_neg h⟩

/-- Everything a symbol step can do, by class of the symbol. -/
theorem symbolStep_cases (p : ReservedSymbolPolicy) (n : Nibble) (b : Block) :
    (n.getLsbD 3 = true ∧ symbolStep p n b = stepData (symbolData n) b) ∨
      (n = 0x0#4 ∧ symbolStep p n b = .ok (b, none)) ∨
      (n = 0x1#4 ∧ symbolStep p n b = .ok ({ b with pendingStart := true }, none)) ∨
      (n = 0x2#4 ∧ symbolStep p n b = .ok ({ b with pendingStart := true }, some .stop)) ∨
      (3 ≤ n.toNat ∧ n.toNat ≤ 7 ∧ symbolStep p n b = stepReserved p b) := by
  have hn := n.isLt
  have hfin : ∃ k : Fin 16, n = BitVec.ofFin k := ⟨n.toFin, rfl⟩
  obtain ⟨k, rfl⟩ := hfin
  revert k
  intro k _
  fin_cases k <;> simp [symbolStep, stepIdle, stepStart, stepStop]

theorem symbolStep_move {p : ReservedSymbolPolicy} {n : Nibble} {b c : Block} {ev : Option BusEvent}
    (h : symbolStep p n b = .ok (c, ev)) : DecoderMove b c := by
  obtain ⟨-, e⟩ | ⟨-, e⟩ | ⟨-, e⟩ | ⟨-, e⟩ | ⟨-, -, e⟩ := symbolStep_cases p n b <;> rw [e] at h
  · obtain ⟨-, e⟩ | ⟨-, e⟩ := stepData_cases (symbolData n) b <;> rw [e] at h
    · have hc : (completeGroup (appendBits (symbolData n) b)).1 = c := by rw [Except.ok.inj h]
      have m := completeGroup_move (appendBits (symbolData n) b)
      exact hc ▸ ⟨m.crc, m.connected, m.capActive, m.errFlags⟩
    · cases h; exact ⟨rfl, rfl, rfl, rfl⟩
  · cases h; exact ⟨rfl, rfl, rfl, rfl⟩
  · cases h; exact ⟨rfl, rfl, rfl, rfl⟩
  · cases h; exact ⟨rfl, rfl, rfl, rfl⟩
  · cases p <;> simp [stepReserved] at h
    obtain ⟨rfl, -⟩ := h
    exact ⟨rfl, rfl, rfl, rfl⟩

/-- The only error of a symbol step is RESERVED_SYMBOL, under the policy `fault`, on a symbol 3 to 7. -/
theorem symbolStep_error {p : ReservedSymbolPolicy} {n : Nibble} {b : Block} {e : ErrorKind}
    (h : symbolStep p n b = .error e) : e = .reservedSymbol ∧ p = .fault ∧ 3 ≤ n.toNat ∧ n.toNat ≤ 7 := by
  obtain ⟨-, q⟩ | ⟨-, q⟩ | ⟨-, q⟩ | ⟨-, q⟩ | ⟨lo, hi, q⟩ := symbolStep_cases p n b <;> rw [q] at h
  · obtain ⟨-, q⟩ | ⟨-, q⟩ := stepData_cases (symbolData n) b <;> rw [q] at h <;> cases h
  · cases h
  · cases h
  · cases h
  · cases p <;> simp [stepReserved] at h
    exact ⟨h.symm, rfl, lo, hi⟩

end Sys2Proof.Machine
end

