-- ==== Sys2Proof/Laws/PerInstr.lean ====
section
/-! SUPPORT. The family TableRow: the first word or byte of an instruction's encoding has the fixed bits of its row of
spec/opcode_table.json (the rows' "fixed": the bits from `lo`, `width` of them, have the value). -/

namespace Sys2Proof.Laws.TableRow

open Sys2Proof Sys2Proof.Machine

/-- A row's fixed bits. -/
structure Fixed where
  lo : Nat
  width : Nat
  value : BitVec width

/-- The fixed bits of each instruction's row. -/
def fixedOf : Instr → Fixed
  | .crcSeed _ => ⟨16, 4, 1#4⟩
  | .crcUpdateByte _ => ⟨8, 12, 512#12⟩
  | .crcUpdateNibble _ => ⟨4, 16, 12288#16⟩
  | .crcRead => ⟨0, 20, 262144#20⟩
  | .crcCheck _ => ⟨16, 4, 5#4⟩
  | .capEnter => ⟨0, 20, 393216#20⟩
  | .capSymbol _ => ⟨4, 16, 28672#16⟩
  | .capByte _ => ⟨8, 12, 2048#12⟩
  | .disconnect => ⟨0, 20, 589824#20⟩
  | .errRead => ⟨0, 20, 655360#20⟩
  | .reservedOp0 _ => ⟨16, 4, 0#4⟩
  | .reservedOpB _ => ⟨16, 4, 11#4⟩
  | .reservedOpC _ => ⟨16, 4, 12#4⟩
  | .reservedOpD _ => ⟨16, 4, 13#4⟩
  | .reservedOpE _ => ⟨16, 4, 14#4⟩
  | .reservedOpF _ => ⟨16, 4, 15#4⟩
  | .symIdle => ⟨0, 4, 0#4⟩
  | .symStart => ⟨0, 4, 1#4⟩
  | .symStop => ⟨0, 4, 2#4⟩
  | .symReserved3 => ⟨0, 4, 3#4⟩
  | .symReserved4To7 _ => ⟨2, 2, 1#2⟩
  | .symData _ => ⟨3, 1, 1#1⟩
  | .hostMonitorOff => ⟨0, 8, 32#8⟩
  | .hostStatus => ⟨0, 8, 63#8⟩
  | .hostEnterCapture => ⟨0, 8, 99#8⟩
  | .hostScan => ⟨0, 8, 100#8⟩
  | .hostEchoProbe _ => ⟨0, 8, 101#8⟩
  | .hostMonitorOn => ⟨0, 8, 109#8⟩
  | .hostI2cStop => ⟨0, 8, 112#8⟩
  | .hostI2cStart _ _ => ⟨0, 8, 115#8⟩
  | .hostBusReset => ⟨0, 8, 120#8⟩
  | .hostReadChunk _ => ⟨6, 2, 2#2⟩
  | .hostWriteChunk _ _ => ⟨6, 2, 3#2⟩

/-- The encoding's first unit has the row's fixed bits. -/
def Statement (i : Instr) : Prop :=
  match encode i with
  | .request w => w.extractLsb' (fixedOf i).lo (fixedOf i).width = (fixedOf i).value
  | .symbol n => n.extractLsb' (fixedOf i).lo (fixedOf i).width = (fixedOf i).value
  | .command [] => False
  | .command (b :: _) => b.extractLsb' (fixedOf i).lo (fixedOf i).width = (fixedOf i).value

/-- The op and the zero bits above an operand of `k` bits. -/
theorem request_fixed {k m : Nat} (op : Nibble) (v : BitVec k) (h : k + m = 16) :
    (requestWord op (v.zeroExtend 16)).extractLsb' k (4 + m) = (op ++ 0#m) := by
  ext i hi
  rw [BitVec.getElem_extractLsb', requestWord]
  refine (BitVec.getLsbD_append (x := op) (y := v.zeroExtend 16)).trans ?_
  by_cases hm : i < m
  · simp [BitVec.getElem_append, hm, show k + i < 16 by omega]
  · simp [BitVec.getElem_append, hm, show ¬ k + i < 16 by omega, show k + i - 16 = i - m by omega]
    exact BitVec.getLsbD_eq_getElem (by omega)

theorem crcSeed (v : Word) : Statement (.crcSeed v) := opField_requestWord _ _

theorem crcUpdateByte (b : Byte) : Statement (.crcUpdateByte b) := request_fixed (m := 8) _ _ rfl

theorem crcUpdateNibble (n : Nibble) : Statement (.crcUpdateNibble n) := request_fixed (m := 12) _ _ rfl

theorem crcRead : Statement .crcRead := rfl

theorem crcCheck (v : Word) : Statement (.crcCheck v) := opField_requestWord _ _

theorem capEnter : Statement .capEnter := rfl

theorem capSymbol (n : Nibble) : Statement (.capSymbol n) := request_fixed (m := 12) _ _ rfl

theorem capByte (b : Byte) : Statement (.capByte b) := request_fixed (m := 8) _ _ rfl

theorem disconnect : Statement .disconnect := rfl

theorem errRead : Statement .errRead := rfl

theorem reservedOp0 (x : Word) : Statement (.reservedOp0 x) := opField_requestWord _ _

theorem reservedOpB (x : Word) : Statement (.reservedOpB x) := opField_requestWord _ _

theorem reservedOpC (x : Word) : Statement (.reservedOpC x) := opField_requestWord _ _

theorem reservedOpD (x : Word) : Statement (.reservedOpD x) := opField_requestWord _ _

theorem reservedOpE (x : Word) : Statement (.reservedOpE x) := opField_requestWord _ _

theorem reservedOpF (x : Word) : Statement (.reservedOpF x) := opField_requestWord _ _

theorem symIdle : Statement .symIdle := rfl

theorem symStart : Statement .symStart := rfl

theorem symStop : Statement .symStop := rfl

theorem symReserved3 : Statement .symReserved3 := rfl

theorem symReserved4To7 (low : BitVec 2) : Statement (.symReserved4To7 low) := by
  show (0b01#2 ++ low).extractLsb' 2 2 = 1#2
  revert low
  decide

theorem symData (d : BitVec 3) : Statement (.symData d) := by
  show (0b1#1 ++ d).extractLsb' 3 1 = 1#1
  revert d
  decide

theorem hostMonitorOff : Statement .hostMonitorOff := rfl

theorem hostStatus : Statement .hostStatus := rfl

theorem hostEnterCapture : Statement .hostEnterCapture := rfl

theorem hostScan : Statement .hostScan := rfl

theorem hostEchoProbe (test : Byte) : Statement (.hostEchoProbe test) := rfl

theorem hostMonitorOn : Statement .hostMonitorOn := rfl

theorem hostI2cStop : Statement .hostI2cStop := rfl

theorem hostI2cStart (a : BitVec 7) (dir : Direction) : Statement (.hostI2cStart a dir) := rfl

theorem hostBusReset : Statement .hostBusReset := rfl

theorem hostReadChunk (n : BitVec 6) : Statement (.hostReadChunk n) := by
  show (readChunkByte n).extractLsb' 6 2 = 2#2
  revert n
  decide

theorem hostWriteChunk (n : BitVec 6) (data : List Byte) : Statement (.hostWriteChunk n data) := by
  show (writeChunkByte n).extractLsb' 6 2 = 3#2
  revert n
  decide

end Sys2Proof.Laws.TableRow
end

