-- ==== Sys2Proof/Laws/Step.lean ====
section
/-! SUPPORT. What one step is in each of the cases of Machine/Fetch.lean, said once. -/

namespace Sys2Proof.Machine

theorem step_of_waiting {s : State} {a : Await} (h : s.host.awaiting = some a) : step s = .next (waitStep a s) := by
  simp [step, fetch, h]

/-- A read that does not stay short goes on, whatever the next input is. -/
theorem waitStep_of_reply {s : State} {a : Await} (h : replyOf a s ≠ .short) : waitStep a s = resumeRead a s := by
  unfold waitStep
  split
  · contradiction
  all_goals rfl

/-- A read that stays short goes on waiting, but for the reset signal, the host's exit, and the cancel of a capture. -/
theorem waitStep_of_short {s : State} {a : Await} (h : replyOf a s = .short) (hr : s.inputs.head? ≠ some .reset)
    (he : s.inputs.head? ≠ some .exit) (hc : a.purpose = .captureByte → s.inputs.head? ≠ some (.op .close)) :
    waitStep a s = s := by
  unfold waitStep
  rw [h]
  dsimp only
  split
  all_goals simp_all

/-- The host's exit ends a read that stays short, whatever it is for. -/
theorem waitStep_of_exit {s : State} {a : Await} {rest : List Input} (h : replyOf a s = .short)
    (hx : s.inputs = .exit :: rest) : waitStep a s = tearDown .closed { s with inputs := rest } := by
  simp [waitStep, h, hx]

/-- A close ends the wait for a stream byte. -/
theorem waitStep_of_cancel {s : State} {a : Await} {rest : List Input} (h : replyOf a s = .short)
    (hp : a.purpose = .captureByte) (hc : s.inputs = .op .close :: rest) :
    waitStep a s = tearDown .closed { s with inputs := rest } := by
  simp [waitStep, h, hc, hp]

/-- A read whose bytes have all come has the effect of its reply. -/
theorem resumeRead_of_done {s : State} {a : Await} {bytes : List Byte} {rest : List Delivery}
    (h : replyOf a s = .done bytes rest) : resumeRead a s = replyArrived a.purpose bytes (endRead rest s) := by
  simp [resumeRead, h]

theorem resumeRead_of_short {s : State} {a : Await} (h : replyOf a s = .short) : resumeRead a s = s := by
  simp [resumeRead, h]

theorem step_of_issued {s : State} {w : RequestWord} {ws : List RequestWord} {i : Instr}
    (ha : s.host.awaiting = none) (h : s.issued = w :: ws) (hd : decodeRequest w = .ok i) :
    step s = exec i { s with issued := ws } := by
  simp [step, fetch, ha, h, fetchRequest, hd]

theorem step_of_command {s s' : State} {i : Instr} (ha : s.host.awaiting = none) (hi : s.issued = [])
    (h : nextCommand s = some (i, s')) : step s = exec i s' := by
  simp [step, fetch, ha, hi, h]

theorem step_of_op {s : State} {o : HostOp} {xs : List Input} (ha : s.host.awaiting = none) (hi : s.issued = [])
    (ht : s.host.task = .idle) (h : s.inputs = .op o :: xs) : step s = startOp o { s with inputs := xs } := by
  simp [step, fetch, ha, hi, nextCommand, ht, h, fetchInput]

end Sys2Proof.Machine
end

