-- ==== Sys2Proof/Tests/Slice0.lean ====
section
/-! SUPPORT. The model's own tests: WellFormed smoke, one written-out word per constructor, vectors of spec/95_test_vectors.md
(each test names its vector or rule), and a witness for the hypotheses of every statement that has some. -/

namespace Sys2Proof.Tests

open Sys2Proof.Machine Sys2Proof.Claims

/-! ## Helpers -/

/-- Whether an outcome is a next state with a property. -/
def nextIs (o : Result) (p : State → Bool) : Bool :=
  match o with
  | .next t => p t
  | .fault _ => false
  | .refused _ => false

/-- A session with this CRC. -/
def session (crc : Word) : State := { State.reset with block := { Block.reset with connected := true, crc := crc } }

/-- Capture mode with this decoder state. -/
def capture (pendingStart : Bool) (accValue : BitVec 9) (accCount : BitVec 4) : State :=
  { State.reset with
    block :=
      { Block.reset with
        connected := true, capActive := true, pendingStart := pendingStart, accValue := accValue,
        accCount := accCount } }

/-- The decoder state of a machine. -/
def decoder (s : State) : Bool × BitVec 9 × BitVec 4 := (s.block.pendingStart, s.block.accValue, s.block.accCount)

/-- A session with a transport that will deliver this. -/
def online (rx : List Delivery) : State := { session 0xFFFF#16 with host := { Driver.reset with rx := rx } }

/-- The last response of a machine. -/
def lastIs (s : State) (code : BitVec 3) (data : Word) (events : List BusEvent) : Bool :=
  s.responses.getLast? == some ⟨code, data, events⟩

/-! ## WellFormed -/

theorem test_wellFormed_refuses_missing_byte : (Instr.hostWriteChunk 1#6 [0x41#8]).WellFormed = false := by decide
theorem test_wellFormed_refuses_extra_byte : (Instr.hostWriteChunk 0#6 [0x41#8, 0x42#8]).WellFormed = false := by decide
theorem test_wellFormed_takes_exact_chunk : (Instr.hostWriteChunk 1#6 [0x41#8, 0x42#8]).WellFormed = true := by decide

/-! ## Decoding: a word of each row, written out from its encoding in opcode_table.json -/

theorem test_decode_crcSeed : decodeRequest 0b0001_0001110100001111#20 = .ok (.crcSeed 0x1D0F#16) := by decide
theorem test_decode_crcUpdateByte : decodeRequest 0b0010_00000000_01000001#20 = .ok (.crcUpdateByte 0x41#8) := by decide
theorem test_decode_crcUpdateNibble : decodeRequest 0b0011_000000000000_0101#20 = .ok (.crcUpdateNibble 5#4) := by decide
theorem test_decode_crcRead : decodeRequest 0b0100_0000000000000000#20 = .ok .crcRead := by decide
theorem test_decode_crcCheck : decodeRequest 0b0101_0101100011100101#20 = .ok (.crcCheck 0x58E5#16) := by decide
theorem test_decode_capEnter : decodeRequest 0b0110_0000000000000000#20 = .ok .capEnter := by decide
theorem test_decode_capSymbol : decodeRequest 0b0111_000000000000_0010#20 = .ok (.capSymbol 2#4) := by decide
theorem test_decode_capByte : decodeRequest 0b1000_00000000_00011101#20 = .ok (.capByte 0x1D#8) := by decide
theorem test_decode_disconnect : decodeRequest 0b1001_0000000000000000#20 = .ok .disconnect := by decide
theorem test_decode_errRead : decodeRequest 0b1010_0000000000000000#20 = .ok .errRead := by decide
theorem test_decode_reservedOp0 : decodeRequest 0b0000_0000000000000000#20 = .ok (.reservedOp0 0#16) := by decide
theorem test_decode_reservedOpB : decodeRequest 0b1011_0000000000000001#20 = .ok (.reservedOpB 1#16) := by decide
theorem test_decode_reservedOpC : decodeRequest 0b1100_0000000000000000#20 = .ok (.reservedOpC 0#16) := by decide
theorem test_decode_reservedOpD : decodeRequest 0b1101_0000000000000000#20 = .ok (.reservedOpD 0#16) := by decide
theorem test_decode_reservedOpE : decodeRequest 0b1110_0000000000000000#20 = .ok (.reservedOpE 0#16) := by decide
theorem test_decode_reservedOpF : decodeRequest 0b1111_0001001000110100#20 = .ok (.reservedOpF 0x1234#16) := by decide
theorem test_decode_symIdle : decodeSymbol 0b0000#4 = .symIdle := by decide
theorem test_decode_symStart : decodeSymbol 0b0001#4 = .symStart := by decide
theorem test_decode_symStop : decodeSymbol 0b0010#4 = .symStop := by decide
theorem test_decode_symReserved3 : decodeSymbol 0b0011#4 = .symReserved3 := by decide
theorem test_decode_symReserved4To7 : decodeSymbol 0b0110#4 = .symReserved4To7 0b10#2 := by decide
theorem test_decode_symData : decodeSymbol 0b1101#4 = .symData 0b101#3 := by decide
theorem test_decode_hostMonitorOff : decodeCommand [0x20#8] = .ok (.hostMonitorOff, []) := by decide
theorem test_decode_hostStatus : decodeCommand [0x3F#8] = .ok (.hostStatus, []) := by decide
theorem test_decode_hostEnterCapture : decodeCommand [0x63#8] = .ok (.hostEnterCapture, []) := by decide
theorem test_decode_hostScan : decodeCommand [0x64#8] = .ok (.hostScan, []) := by decide
theorem test_decode_hostEchoProbe : decodeCommand [0x65#8, 0x0D#8] = .ok (.hostEchoProbe 0x0D#8, []) := by decide
theorem test_decode_hostMonitorOn : decodeCommand [0x6D#8] = .ok (.hostMonitorOn, []) := by decide
theorem test_decode_hostI2cStop : decodeCommand [0x70#8] = .ok (.hostI2cStop, []) := by decide
/-- V-S22. -/
theorem test_decode_hostI2cStart : decodeCommand [0x73#8, 0xA0#8] = .ok (.hostI2cStart 0x50#7 .write, []) := by decide
theorem test_decode_hostBusReset : decodeCommand [0x78#8] = .ok (.hostBusReset, []) := by decide
/-- 30_encoding.md R62: `10nnnnnn`, n = b[5:0] + 1. -/
theorem test_decode_hostReadChunk : decodeCommand [0b10000111#8] = .ok (.hostReadChunk 7#6, []) := by decide
theorem test_decode_hostWriteChunk :
    decodeCommand [0b11000001#8, 0x41#8, 0x42#8, 0x70#8] = .ok (.hostWriteChunk 1#6 [0x41#8, 0x42#8], [0x70#8]) := by decide

/-- V-R10: a must-be-zero bit. -/
theorem test_decode_mustBeZero : decodeRequest 0x20100#20 = .error (.mustBeZero 0x20100#20) := by decide
/-- 30_encoding.md R62: a byte that is no command. -/
theorem test_decode_notACommand : decodeCommand [0x41#8] = .error (.notACommand 0x41#8) := by decide
theorem test_decode_truncated : decodeCommand [0xC1#8, 0x41#8] = .error (.truncated 0xC1#8) := by decide

/-- V-S24 and V-S7: the bytes of a start and of the longest chunk command. -/
theorem test_encode_bridge_bytes :
    encode (.hostI2cStart 0x7F#7 .read) = .command [0x73#8, 0xFF#8] ∧
    encode (.hostReadChunk 63#6) = .command [0xBF#8] ∧ writeChunkByte 63#6 = 0xFF#8 := by decide

/-- The opcode table's rows as (match, mask), format by format. -/
def requestRows : List (RequestWord × RequestWord) :=
  [(0x10000#20, 0xF0000#20), (0x20000#20, 0xFFF00#20), (0x30000#20, 0xFFFF0#20), (0x40000#20, 0xFFFFF#20),
   (0x50000#20, 0xF0000#20), (0x60000#20, 0xFFFFF#20), (0x70000#20, 0xFFFF0#20), (0x80000#20, 0xFFF00#20)] ++
  [(0x90000#20, 0xFFFFF#20), (0xA0000#20, 0xFFFFF#20), (0x00000#20, 0xF0000#20), (0xB0000#20, 0xF0000#20),
   (0xC0000#20, 0xF0000#20), (0xD0000#20, 0xF0000#20), (0xE0000#20, 0xF0000#20), (0xF0000#20, 0xF0000#20)]

def byteRows : List (Byte × Byte) :=
  [(0x00#8, 0xFF#8), (0x01#8, 0xFF#8), (0x02#8, 0xFF#8), (0x03#8, 0xFF#8), (0x04#8, 0xFC#8), (0x08#8, 0xF8#8)] ++
  [(0x20#8, 0xFF#8), (0x3F#8, 0xFF#8), (0x63#8, 0xFF#8), (0x64#8, 0xFF#8), (0x65#8, 0xFF#8), (0x6D#8, 0xFF#8),
   (0x70#8, 0xFF#8), (0x73#8, 0xFF#8), (0x78#8, 0xFF#8), (0x80#8, 0xC0#8), (0xC0#8, 0xC0#8)]

/-- No two rows match one word (symbols taken as bytes, as `decodeTableWord` takes them). -/
theorem test_rows_do_not_overlap :
    requestRows.Pairwise (fun r q => r.1 &&& (r.2 &&& q.2) ≠ q.1 &&& (r.2 &&& q.2)) ∧
    byteRows.Pairwise (fun r q => r.1 &&& (r.2 &&& q.2) ≠ q.1 &&& (r.2 &&& q.2)) := by decide

theorem test_table_words :
    decodeTableWord 24 0x70005 = some (.capSymbol 5#4) ∧ decodeTableWord 8 0x0A = some (.symData 2#3) ∧
    decodeTableWord 8 0xC1 = some (.hostWriteChunk 1#6 [0#8, 0#8]) ∧
    decodeTableWord 8 0x73 = some (.hostI2cStart 0#7 .write) ∧ decodeTableWord 24 0x90001 = none := by decide

/-! ## The CRC (95_test_vectors.md 2.1) -/

/-- V-C1, V-C2, V-C3: the check string "123456789". -/
theorem test_crc_check_string :
    crcUpdate 0x0000#16 ((List.range 9).map (fun i => BitVec.ofNat 8 (0x31 + i))) = 0x31C3#16 ∧
    crcUpdate 0xFFFF#16 ((List.range 9).map (fun i => BitVec.ofNat 8 (0x31 + i))) = 0x29B1#16 ∧
    crcUpdate 0x1D0F#16 ((List.range 9).map (fun i => BitVec.ofNat 8 (0x31 + i))) = 0xE5CC#16 := by decide +kernel

/-- V-C8, V-C10, V-C13, V-C17. -/
theorem test_crc_bytes :
    crcByte 0x0000#16 0x80#8 = 0x9188#16 ∧ crcByte 0x0000#16 0xFF#8 = 0x1EF0#16 ∧
    crcByte 0xFFFF#16 0xFF#8 = 0xFF00#16 ∧ crcByte 0x1234#16 0x56#8 = 0x3C40#16 := by decide

/-- V-N3 to V-N8. -/
theorem test_crc_nibbles :
    crcNib 0x0000#16 8#4 = 0x8108#16 ∧ crcNib 0xFFFF#16 0xF#4 = 0xFFF0#16 ∧ crcNib 0xFFFF#16 0#4 = 0x0E1F#16 ∧
    crcNib 0x8000#16 0#4 = 0x8108#16 ∧ crcNib 0x1234#16 5#4 = 0x63C4#16 ∧ crcNib 0x63C4#16 6#4 = 0x3C40#16 := by decide

/-! ## Requests -/

/-- V-R1. -/
theorem test_crcSeed : nextIs (exec (.crcSeed 0x1D0F#16) .reset) (fun t =>
    t.block.crc == 0x1D0F#16 && t.block.connected && lastIs t 0#3 0#16 []) = true := by decide
/-- V-R8. -/
theorem test_crcSeed_in_capture : nextIs (exec (.crcSeed 0x1234#16) (capture false 0#9 0#4)) (fun t =>
    t.block.crc == 0#16 && t.block.errFlags == 0x04#8 && lastIs t 3#3 0#16 []) = true := by decide
/-- V-C21, first byte then V-R6. -/
theorem test_crcUpdateByte : nextIs (exec (.crcUpdateByte 0x41#8) (session 0#16)) (fun t =>
    t.block.crc == 0x58E5#16 && lastIs t 0#3 0#16 []) = true := by decide
theorem test_crcUpdateByte_without_session : nextIs (exec (.crcUpdateByte 0x41#8) .reset) (fun t =>
    t.block == { Block.reset with errFlags := 0x02#8 } && lastIs t 2#3 0#16 []) = true := by decide
/-- 40_checksum.md R85, its example; V-R9. -/
theorem test_crcUpdateNibble : nextIs (exec (.crcUpdateNibble 5#4) (session 0x1234#16)) (fun t =>
    t.block.crc == 0x63C4#16 && lastIs t 0#3 0#16 []) = true := by decide
theorem test_crcUpdateNibble_in_capture : nextIs (exec (.crcUpdateNibble 5#4) (capture false 0#9 0#4)) (fun t =>
    t.block.errFlags == 0x04#8 && lastIs t 3#3 0#16 []) = true := by decide
/-- V-R3. -/
theorem test_crcRead : nextIs (exec .crcRead (session 0x1D0F#16)) (fun t => lastIs t 0#3 0x1D0F#16 []) = true := by decide
/-- V-R4, V-R5. -/
theorem test_crcCheck_match : nextIs (exec (.crcCheck 0x58E5#16) (session 0x58E5#16)) (fun t =>
    t.block.errFlags == 0#8 && lastIs t 0#3 1#16 []) = true := by decide
theorem test_crcCheck_mismatch : nextIs (exec (.crcCheck 0#16) (session 0x58E5#16)) (fun t =>
    t.block.errFlags == 0x20#8 && t.block.crc == 0x58E5#16 && lastIs t 0#3 0#16 []) = true := by decide
/-- V-Q1, V-Q3. -/
theorem test_capEnter : nextIs (exec .capEnter (session 7#16)) (fun t =>
    t.block.capActive && decoder t == (false, 0#9, 0#4) && t.block.crc == 7#16) = true := by decide
theorem test_capEnter_twice : nextIs (exec .capEnter (capture true 5#9 3#4)) (fun t =>
    decoder t == (true, 5#9, 3#4) && lastIs t 3#3 0#16 []) = true := by decide
/-- V-D16, V-Q4. -/
theorem test_capSymbol_group : nextIs (exec (.capSymbol 0xB#4) (capture true 0b101000#9 6#4)) (fun t =>
    decoder t == (false, 0#9, 0#4) && lastIs t 0#3 0#16 [.start 0x50#7 .read .nak]) = true := by decide
theorem test_capSymbol_outside : nextIs (exec (.capSymbol 2#4) .reset) (fun t =>
    t.block.errFlags == 0x08#8 && lastIs t 4#3 0#16 []) = true := by decide
/-- V-Q7, V-Q9. -/
theorem test_capByte_two_events : nextIs (exec (.capByte 0xF2#8) (capture false 0b101010#9 6#4)) (fun t =>
    decoder t == (true, 0#9, 0#4) && lastIs t 0#3 0#16 [.byte 0xAB#8 .nak, .stop]) = true := by decide
theorem test_capByte_low_fails : nextIs (exec (.capByte 0xD3#8) (capture false 0#9 0#4)) (fun t =>
    decoder t == (false, 0b101#9, 3#4) && t.block.errFlags == 0x10#8 && lastIs t 5#3 0#16 []) = true := by decide
/-- V-Q11, V-S1. -/
theorem test_disconnect : nextIs (exec .disconnect (capture true 0b111111#9 6#4)) (fun t =>
    t.block == Block.reset && lastIs t 0#3 0#16 []) = true := by decide
/-- V-S3. -/
theorem test_errRead : nextIs (exec .errRead { State.reset with block := { Block.reset with errFlags := 0x24#8 } })
    (fun t => t.block.errFlags == 0x24#8 && lastIs t 0#3 0x24#16 []) = true := by decide
/-- V-R12, V-R13. -/
theorem test_reservedOp : nextIs (exec (.reservedOpF 0x1234#16) (session 3#16)) (fun t =>
    t.block == { (session 3#16).block with errFlags := 0x01#8 } && lastIs t 1#3 0#16 []) = true := by decide
/-- V-R11: the step of an illegal word. -/
theorem test_step_illegal : nextIs (step { session 0#16 with inputs := [.code (.request 0x30010#20)] }) (fun t =>
    t.block.errFlags == 0x01#8 && t.inputs == [] && lastIs t 1#3 0#16 []) = true := by decide
/-- P4 under `fault` and `ignore`. -/
theorem test_reserved_policy :
    nextIs (exec (.capByte 0x35#8) (capture false 0#9 0#4)) (fun t => lastIs t 5#3 0#16 []) = true ∧
    nextIs (exec (.capByte 0x35#8)
      { capture false 0#9 0#4 with params := { Params.spec with reservedSymbol := .ignore } })
      (fun t => lastIs t 0#3 0#16 [] && t.block.errFlags == 0#8) = true := by decide

/-! ## Symbols -/

/-- V-D2. -/
theorem test_symIdle : nextIs (exec .symIdle (capture true 5#9 3#4)) (fun t =>
    decoder t == (true, 5#9, 3#4) && lastIs t 0#3 0#16 []) = true := by decide
/-- V-D5. -/
theorem test_symStart : nextIs (exec .symStart (capture false 5#9 3#4)) (fun t =>
    decoder t == (true, 5#9, 3#4) && lastIs t 0#3 0#16 []) = true := by decide
/-- V-D7. -/
theorem test_symStop : nextIs (exec .symStop (capture false 0b101010#9 6#4)) (fun t =>
    decoder t == (true, 0b101010#9, 6#4) && lastIs t 0#3 0#16 [.stop]) = true := by decide
/-- V-D8, V-D9. -/
theorem test_symReserved3 : nextIs (exec .symReserved3 (capture false 0#9 0#4)) (fun t =>
    decoder t == (false, 0#9, 0#4) && t.block.errFlags == 0x10#8 && lastIs t 5#3 0#16 []) = true := by decide
theorem test_symReserved4To7 : nextIs (exec (.symReserved4To7 3#2) (capture true 5#9 3#4)) (fun t =>
    decoder t == (true, 5#9, 3#4) && lastIs t 5#3 0#16 []) = true := by decide
/-- V-D12, V-D22. -/
theorem test_symData_appends : nextIs (exec (.symData 0#3) (capture false 5#9 3#4)) (fun t =>
    decoder t == (false, 0b101000#9, 6#4) && lastIs t 0#3 0#16 []) = true := by decide
theorem test_symData_completes : nextIs (exec (.symData 2#3) (capture true 0#9 6#4)) (fun t =>
    decoder t == (false, 0#9, 0#4) && lastIs t 0#3 0#16 [.start 0#7 .read .ack]) = true := by decide

/-! ## Bridge commands -/

/-- V-S26, V-S27. -/
theorem test_hostBusReset : nextIs (exec .hostBusReset (online [.byte 0x01#8])) (fun t =>
    t.host.tx == [0x78#8] && t.host.results == [.levels false true]) = true := by decide
theorem test_hostBusReset_failed_read : nextIs (exec .hostBusReset (online [.failure])) (fun t =>
    t.host.results == [.levels false false] && t.issued == []) = true := by decide
/-- V-S23. -/
theorem test_hostI2cStart : nextIs (exec (.hostI2cStart 0x50#7 .read) (online [.byte 0x01#8])) (fun t =>
    t.host.tx == [0x73#8, 0xA1#8] && t.host.results == [.started .ack]) = true := by decide
/-- V-S11, V-S12, V-S15. -/
theorem test_hostWriteChunk_acked : nextIs (exec (.hostWriteChunk 1#6 [0x41#8, 0x42#8]) (online [.byte 0x01#8])) (fun t =>
    t.host.tx == [0xC1#8, 0x41#8, 0x42#8] && t.issued == [0x20041#20, 0x20042#20]) = true := by decide
theorem test_hostWriteChunk_nak : nextIs (exec (.hostWriteChunk 0#6 [0x41#8]) (online [.byte 0xFE#8])) (fun t =>
    t.issued == [] && t.host.results == [.written .nak]) = true := by decide
/-- V-S17. -/
theorem test_hostReadChunk : nextIs (exec (.hostReadChunk 0#6) (online [.byte 0x41#8])) (fun t =>
    t.host.tx == [0x80#8] && t.issued == [0x20041#20] && t.host.results == [.data [0x41#8]]) = true := by decide
/-- V-S33, one probe of it. -/
theorem test_hostEchoProbe : nextIs (exec (.hostEchoProbe 0x0A#8) (online [.byte 0x00#8])) (fun t =>
    t.host.tx == [0x65#8, 0x0A#8] && t.host.results == [.handshakeFailed] && t.issued == []) = true := by decide
/-- V-S28 to V-S31. -/
theorem test_hostScan_presence :
    scanPresence (scanFlags [0x31#8]) 8#7 = .present ∧
    scanPresence (scanFlags (List.replicate 111 0x31#8 ++ [0x30#8])) 119#7 = .absent ∧
    scanPresence (scanFlags (List.replicate 5 0x31#8 ++ [0x58#8])) 13#7 = .absent ∧
    scanPresence (scanFlags (List.replicate 112 0x31#8)) 7#7 = .notScanned ∧
    scanPresence (scanFlags (List.replicate 112 0x31#8)) 120#7 = .notScanned := by decide
theorem test_hostScan_waits : nextIs (exec .hostScan (online [.byte 0x31#8])) (fun t =>
    t.host.tx == [0x64#8] && t.host.awaiting == some ⟨112, .scan⟩) = true := by decide
theorem test_hostStatus_without_session : nextIs (exec .hostStatus .reset) (fun t =>
    t.host.tx == [] && t.host.results == [.notConnected]) = true := by decide
/-- 41_session_boundary.md R112, R113, R109. -/
theorem test_hostEnterCapture : nextIs (exec .hostEnterCapture (online [])) (fun t =>
    t.host.tx == [0x63#8] && t.issued == [0x60000#20] && t.host.channel == .stream) = true := by decide
theorem test_hostMonitor : nextIs (exec .hostMonitorOn (online [])) (fun t => t.host.tx == [0x6D#8]) = true ∧
    nextIs (exec .hostMonitorOff (online [])) (fun t => t.host.tx == [0x20#8]) = true := by decide
/-- 70_reset_and_hazards.md R187, 93_implementation_defined.md I11: a bare DISCONNECT leaves the old channel abandoned, and only
closing it is a move. -/
theorem test_abandoned_channel :
    let abandoned := { State.reset with host := { Driver.reset with rx := [.byte 0x41#8], channel := .stream } }
    nextIs (exec (.hostEchoProbe 0x41#8) abandoned) (fun t =>
      t.host.tx == [] && t.host.results == [.channelAbandoned]) = true ∧
    nextIs (step { abandoned with inputs := [.op .connect] }) (fun t => t.host.task == .idle) = true ∧
    nextIs (step { abandoned with inputs := [.op .close] }) (fun t =>
      t.host.channel == .clear && t.host.rx == [] && t.issued == [0x90000#20]) = true := by decide
/-- The same: a capture that the outside enters on the old channel does not read its stream. -/
theorem test_old_stream_is_not_read :
    let again := { session 0#16 with
      inputs := [.code (.request 0x60000#20), .op .captureRead]
      host := { Driver.reset with rx := [.byte 0x1D#8], channel := .stream } }
    nextIs (Host.Core.run core 2 again) (fun t =>
      t.block.capActive && t.issued == [] && t.host.rx == [.byte 0x1D#8] && t.host.results == [.channelAbandoned])
      = true := by decide
/-- 41_session_boundary.md R100: the process exits while it is blocked in a status read of a reconnect. -/
theorem test_exit_ends_blocked_read :
    let hung := { session 7#16 with
      inputs := [.exit]
      host := { Driver.reset with awaiting := some ⟨80, .status⟩, task := .connect [], rx := [.byte 1#8] } }
    nextIs (Host.Core.run core 2 hung) (fun t =>
      t.block == Block.reset && t.host == { Driver.reset with results := [.closed] } && t.inputs == []) = true := by decide
/-- 60_exceptions.md R166: TransportError is DISCONNECT, inside a connect too. -/
theorem test_transport_error_in_connect :
    nextIs (exec .hostStatus { session 0#16 with
      host := { Driver.reset with task := .connect [], rx := [.failure] } }) (fun t =>
      t.issued == [0x90000#20] && t.host.results == [.transportError]) = true := by decide
theorem test_hostI2cStop : nextIs (exec .hostI2cStop (online [])) (fun t => t.host.tx == [0x70#8]) = true := by decide

/-! ## The assembler (30_encoding.md R69) -/

theorem test_assemble_line :
    assembleLine "CRC_SEED 0x1D0F ; connect".toList = some [0x11D0F#20] ∧
    assembleLine "CAP_CANCEL".toList = some [0x90000#20] ∧
    assembleLine "CRC_UPDATE 0x41, 66,'C'".toList = some [0x20041#20, 0x20042#20, 0x20043#20] ∧
    assembleLine "CRC_READ 1".toList = none := by decide

/-! ## Placed words -/

theorem test_placed_words_run :
    nextIs (step (State.reset.withFetchWord 24 0x11D0F)) (fun t => t.block.crc == 0x1D0F#16) = true ∧
    nextIs (step (State.reset.withFetchWord 8 0x08)) (fun t => lastIs t 4#3 0#16 []) = true ∧
    nextIs (step (State.reset.withFetchWord 8 0x65)) (fun t => t.host.tx == [0x65#8, 0#8]) = true := by decide

/-! ## Witnesses: concrete states and operands that meet the hypotheses of each statement -/

theorem witness_DecodeUndoesEncode : (Instr.hostWriteChunk 0#6 [0x41#8]).WellFormed = true := by decide
theorem witness_EncodeUndoesDecode :
    decodeRequest 0x80011#20 = .ok (.capByte 0x11#8) ∧
    decodeCommand [0x65#8, 0x41#8, 0x3F#8] = .ok (.hostEchoProbe 0x41#8, [0x3F#8]) := by decide
/-- Each clause of StepRunsTheDecodedInstruction. -/
theorem witness_StepRunsTheDecodedInstruction :
    ({ session 0#16 with issued := [0x40000#20] }).host.awaiting = none ∧
    decodeRequest 0x40000#20 = .ok .crcRead ∧
    (nextCommand (setTask (.connect [0x41#8]) .reset)).isSome = true ∧
    ({ State.reset with inputs := [.code (.symbol 0#4)] }).host.task = .idle ∧
    decodeCommand [0x70#8] = .ok (.hostI2cStop, []) ∧
    isCommand 0x7F#8 = false ∧ isCommand 0x80#8 = true ∧ isCommand 0xFF#8 = true ∧ furtherCount 0xFF#8 = 64 ∧
    isCommand 0x65#8 = true ∧ ([] : List Byte).length < furtherCount 0x65#8 := by decide
theorem witness_PlacedWordRunsNext : decodeTableWord 8 0xFF ≠ none := by decide
/-- The boundary words of each way a word is illegal. -/
theorem witness_IllegalRequestIsRefused :
    illegalWord 0x0FFFF#20 = true ∧ illegalWord 0xB0000#20 = true ∧ illegalWord 0x28000#20 = true ∧
    illegalWord 0x30010#20 = true ∧ illegalWord 0x90001#20 = true ∧
    ({ State.reset with inputs := [.code (.request 0x0FFFF#20)] }).Quiet :=
  ⟨by decide, by decide, by decide, by decide, by decide, rfl, rfl, rfl⟩
/-- The three kinds of state of the CRC requests: a session, no session, capture mode (also for CapEnter). -/
theorem witness_CrcSeedLoadsAndOpensSession :
    State.reset.block.capActive = false ∧ (capture false 0#9 0#4).block.capActive = true := by decide
theorem witness_CrcUpdateByteFeedsEightBits :
    (session 0#16).block.capActive = false ∧ (session 0#16).block.connected = true ∧
    (capture false 0#9 0#4).block.capActive = true ∧
    State.reset.block.capActive = false ∧ State.reset.block.connected = false := by decide
theorem witness_CrcUpdateNibbleFeedsFourBits :
    (session 1#16).block.capActive = false ∧ (session 1#16).block.connected = true ∧
    (capture true 0#9 3#4).block.capActive = true ∧
    State.reset.block.capActive = false ∧ State.reset.block.connected = false := by decide
theorem witness_CrcReadReturnsTheAccumulator :
    (session 2#16).block.capActive = false ∧ (session 2#16).block.connected = true ∧
    (capture true 0#9 0#4).block.capActive = true ∧ State.reset.block.connected = false ∧
    nextIs (exec (.crcSeed 2#16) State.reset) (fun _ => true) = true := by decide
theorem witness_CrcCheckComparesAndWarns :
    (session 2#16).block.capActive = false ∧ (session 2#16).block.connected = true ∧ (session 2#16).block.crc = 2#16 ∧
    (session 2#16).block.crc ≠ 3#16 ∧ (capture true 0#9 0#4).block.capActive = true ∧
    State.reset.block.capActive = false ∧ State.reset.block.connected = false := by decide
theorem witness_CrcShiftIsLinear : (16 : Nat) ≤ 16 ∧ (0 : Nat) ≤ 16 := by decide
theorem witness_CrcUpdateRunFoldsTheBytes :
    (session 0#16).host.awaiting = none ∧ (session 0#16).block.connected = true ∧
    (session 0#16).block.capActive = false := by decide
/-- The invariants hold of the state after reset, so its hypotheses can be met. -/
theorem reset_inv : State.reset.Inv where
  capture_needs_session := by decide
  decoder_clear_outside_capture := by decide
  crc_zero_without_session := by decide
  count_reachable := by decide
  value_fits_count := by decide
  reserved_flags_zero := by decide
/-- ... and in capture mode with six bits held. -/
theorem capture_inv : (capture true 0b111111#9 6#4).Inv where
  capture_needs_session := by decide
  decoder_clear_outside_capture := by decide
  crc_zero_without_session := by decide
  count_reachable := by decide
  value_fits_count := by decide
  reserved_flags_zero := by decide
theorem witness_DisconnectClearsAllButErrFlags : State.reset.Inv ∧ State.reset.block.connected = false :=
  ⟨reset_inv, rfl⟩
theorem witness_CapEnterStartsACleanDecoder :
    (session 2#16).block.capActive = false ∧ (session 2#16).block.connected = true ∧
    (capture true 0#9 0#4).block.capActive = true ∧
    State.reset.block.capActive = false ∧ State.reset.block.connected = false := by decide
/-- Both counts and both policies (also for ReservedSymbolsFollowThePolicy and DataSymbolAppendsOrCompletes). -/
theorem witness_SymbolsOnTheirOwnAct :
    (capture true 0#9 6#4).block.capActive = true ∧ (capture true 0#9 6#4).block.accCount = 6#4 ∧
    (capture true 0#9 3#4).block.accCount ≠ 6#4 ∧
    ({ capture true 0#9 6#4 with params := { Params.spec with reservedSymbol := .ignore } }).params.reservedSymbol
      = .ignore ∧
    (capture true 0#9 6#4).params.reservedSymbol = .fault := by decide
theorem witness_CapSymbolIsItsSymbol : State.reset.block.capActive = false := by decide
theorem witness_ControlSymbolsIdleStartStop : (capture false 5#9 3#4).block.capActive = true := by decide
theorem witness_ReservedSymbolsFollowThePolicy :
    (capture true 5#9 3#4).block.capActive = true ∧ reservedSymbol 3#4 = true ∧ reservedSymbol 7#4 = true ∧
    reservedSymbol 2#4 = false ∧ reservedSymbol 8#4 = false ∧
    (capture true 5#9 3#4).params.reservedSymbol = .fault ∧
    ({ capture true 5#9 3#4 with params := { Params.spec with reservedSymbol := .ignore } }).params.reservedSymbol
      = .ignore := by decide
theorem witness_DataSymbolAppendsOrCompletes :
    (capture true 0#9 0#4).block.capActive = true ∧ (capture true 0#9 0#4).block.accCount ≠ 6#4 ∧
    (capture true 0#9 6#4).block.capActive = true ∧ (capture true 0#9 6#4).block.accCount = 6#4 := by decide
/-- A byte of two good symbols, one with a reserved high symbol, one with a reserved low symbol. -/
theorem witness_CapByteIsTwoSymbolSteps :
    State.reset.block.capActive = false ∧ (capture false 0#9 0#4).block.capActive = true ∧
    exec (.capSymbol 1#4) (capture false 0#9 0#4)
      = .next (answered (capture false 0#9 0#4) (capture true 0#9 0#4).block 0#16 []) ∧
    exec (.capSymbol 2#4) { capture false 0#9 0#4 with block := (capture true 0#9 0#4).block }
      = .next (answered { capture false 0#9 0#4 with block := (capture true 0#9 0#4).block } (capture true 0#9 0#4).block
          0#16 [.stop]) ∧
    reservedSymbol ((0x30#8 : Byte).extractLsb' 4 4) = true ∧ reservedSymbol ((0x13#8 : Byte).extractLsb' 0 4) = true ∧
    (capture false 0#9 0#4).params.reservedSymbol = .fault :=
  ⟨rfl, rfl, rfl, rfl, by decide, by decide, rfl⟩
theorem witness_CapByteSucceedsWithoutReservedSymbols :
    (capture false 0#9 0#4).block.capActive = true ∧ reservedSymbol ((0x28#8 : Byte).extractLsb' 4 4) = false ∧
    reservedSymbol ((0x28#8 : Byte).extractLsb' 0 4) = false ∧
    ({ capture true 5#9 3#4 with params := { Params.spec with reservedSymbol := .ignore } }).params.reservedSymbol
      = .ignore := by decide
theorem witness_EventCountsOfASymbolRun :
    let s := { capture false 0#9 0#4 with inputs := symbolInputs [0x1#4, 0xD#4, 0x8#4, 0x8#4, 0x2#4] }
    s.Quiet ∧ s.block.capActive = true ∧ s.block.accCount = 0#4 ∧
      ∀ n ∈ [0x1#4, 0xD#4, 0x8#4, 0x8#4, 0x2#4], reservedSymbol n = false :=
  ⟨⟨rfl, rfl, rfl⟩, rfl, rfl, by decide⟩
theorem witness_GroupIsItsThreeDataSymbols :
    let s := { capture false 0#9 0#4 with
      inputs := symbolInputs (((0b1#1 ++ 5#3) :: [0x0#4, 0x1#4]) ++ ((0b1#1 ++ 0#3) :: [0x2#4]) ++ [0b1#1 ++ 0#3]) ++ [] }
    s.Quiet ∧ s.block.capActive = true ∧ s.block.accCount = 0#4 ∧ ∀ n ∈ [0x0#4, 0x1#4] ++ [0x2#4], n.toNat ≤ 2 :=
  ⟨⟨rfl, rfl, rfl⟩, rfl, rfl, by decide⟩
/-- A row on the block and an error of it. -/
theorem witness_ErrorsChangeOnlyErrFlags :
    onBlock (.capByte 0xD3#8) = true ∧ onBlock .crcRead = true ∧
    nextIs (exec .crcRead .reset) (fun t => lastIs t 2#3 0#16 []) = true ∧
    nextIs (exec (.capByte 0xD3#8) (capture false 0#9 0#4)) (fun t => lastIs t 5#3 0#16 []) = true := by decide
theorem witness_ErrFlagsAreSticky :
    let s := { session 0#16 with
      block := { (session 0#16).block with errFlags := 0x01#8 }, inputs := [.code (.request 0x40000#20)] }
    let held := { s with inputs := [.reset], issued := [0x40000#20] }
    nextIs (step s) (fun t => decide (s.inputs ≠ .reset :: t.inputs)) = true ∧ s.block.errFlags.getLsbD 0 = true ∧
      nextIs (step held) (fun t => decide (held.inputs ≠ .reset :: t.inputs)) = true := by decide
theorem witness_StepKeepsTheInvariants :
    (capture true 0b111111#9 6#4).Inv ∧ nextIs (step (capture true 0b111111#9 6#4)) (fun _ => true) = true :=
  ⟨capture_inv, by decide⟩
/-- Each of the four changes happens. -/
theorem witness_SessionAndCaptureChangeOnlyBy :
    nextIs (exec (.crcSeed 0#16) .reset) (fun t => t.block.connected) = true ∧
    nextIs (exec .disconnect (session 0#16)) (fun t => !t.block.connected) = true ∧
    nextIs (exec .capEnter (session 0#16)) (fun t => t.block.capActive) = true ∧
    nextIs (exec .disconnect (capture true 0#9 0#4)) (fun t => !t.block.capActive) = true := by decide
theorem witness_CrcChangesOnlyBy :
    nextIs (exec (.crcUpdateByte 1#8) (session 0#16)) (fun t => t.block.crc != (session 0#16).block.crc) = true := by
  decide
theorem witness_CrcIsHiddenWithoutASession :
    let s := { State.reset with inputs := [.code (.request 0x40000#20), .code (.request 0x10007#20)] }
    s.block.connected = false ∧ nextIs (Host.Core.run core 2 s) (fun t => t.block.connected) = true := by decide
theorem witness_LogsOnlyGrow : nextIs (step State.reset) (fun t => t == State.reset) = true := by decide
theorem witness_ResetSetsEveryRegister :
    ({ session 9#16 with inputs := [.reset] }).Quiet ∧ ({ session 9#16 with inputs := [.reset] }).inputs = .reset :: [] :=
  ⟨⟨rfl, rfl, rfl⟩, rfl⟩
/-- The waiting clause; the quiet clause is the witness above. -/
theorem witness_ResetSignalReachesOnlyTheBlock :
    let s := { session 9#16 with inputs := [.reset], host := { Driver.reset with awaiting := some ⟨1, .scan⟩ } }
    s.host.awaiting = some ⟨1, .scan⟩ ∧ 0 < 1 ∧ s.host.rx = [] ∧ s.inputs = .reset :: [] := by decide
theorem witness_AfterResetOnlyThreeRequestsSucceed : State.reset.block = Block.reset := by decide
theorem witness_BridgeCommandsLeaveTheBlock :
    onBlock .hostScan = false ∧ nextIs (exec .hostScan (online [])) (fun _ => true) = true ∧
    let waiting := { online [.byte 7#8] with host := { (online [.byte 7#8]).host with awaiting := some ⟨1, .startAck⟩ } }
    waiting.host.awaiting = some ⟨1, .startAck⟩ ∧
      nextIs (step waiting) (fun t => decide (waiting.inputs ≠ .reset :: t.inputs)) = true := by decide
theorem witness_OnlyReadAndWriteDataEntersTheCrc :
    onBlock (.hostReadChunk 0#6) = false ∧
    nextIs (exec (.hostReadChunk 0#6) (online [.byte 7#8])) (fun t => t.issued == [0x20007#20]) = true ∧
    (let waiting := { online [.byte 7#8] with host := { (online [.byte 7#8]).host with awaiting := some ⟨1, .readData⟩ } }
    waiting.host.awaiting = some ⟨1, .readData⟩ ∧ nextIs (step waiting) (fun t => t.issued == [0x20007#20]) = true) ∧
    let taking := { capture true 0#9 0#4 with inputs := [.op .captureRead], host := (online [.byte 7#8]).host }
    taking.inputs = .op .captureRead :: [] ∧ nextIs (step taking) (fun t => t.issued == [0x80007#20]) = true := by decide
theorem witness_CommandsNeedASessionAndNoCapture :
    let abandoned := { State.reset with host := { Driver.reset with channel := .stream } }
    let old := { capture true 0#9 0#4 with
      inputs := [.op .captureRead], host := { Driver.reset with channel := .oldStream } }
    needsSession .hostStatus = true ∧ State.reset.block.capActive = false ∧ State.reset.block.connected = false ∧
    connecting .reset = false ∧ (capture true 0#9 0#4).block.capActive = true ∧
    onBlock (.hostEchoProbe 0x41#8) = false ∧ needsSession (.hostEchoProbe 0x41#8) = false ∧
    abandoned.block.capActive = false ∧ abandoned.host.channel ≠ .clear ∧
    mayBeSent (.hostEchoProbe 0x41#8) abandoned ∧
    ({ abandoned with inputs := [.op .connect] }).Quiet ∧ ({ State.reset with inputs := [.op (.read 1)] }).Quiet ∧
    ({ capture true 0#9 0#4 with inputs := [.op (.write [])] }).Quiet ∧
    old.Quiet ∧ old.block.capActive = true ∧ old.host.channel = .oldStream :=
  ⟨rfl, rfl, rfl, rfl, rfl, rfl, rfl, rfl, by decide, (fun h => nomatch h), ⟨rfl, rfl, rfl⟩, ⟨rfl, rfl, rfl⟩,
    ⟨rfl, rfl, rfl⟩, ⟨rfl, rfl, rfl⟩, rfl, rfl⟩
/-- A state in which the host can send, for every statement over `Live`. -/
theorem live_online (rx : List Delivery) : Live (online rx) := ⟨rfl, rfl, rfl, rfl⟩
theorem witness_StopAndMonitorSendOneByte : Live (online []) := live_online []
theorem witness_CaptureCommandEntersCapture :
    Live (online []) ∧
    let s := { capture true 0#9 0#4 with
      inputs := [.op .captureRead], host := { Driver.reset with rx := [.byte 0x1D#8] } }
    let waiting := { s with host := { s.host with awaiting := some ⟨1, .captureByte⟩ } }
    s.Quiet ∧ s.block.capActive = true ∧ s.host.channel ≠ .oldStream ∧ s.inputs = .op .captureRead :: [] ∧ s.host.rx = .byte 0x1D#8 :: [] ∧
      ({ s with host := Driver.reset }).host.rx = [] ∧
      waiting.host.awaiting = some ⟨1, .captureByte⟩ ∧ waiting.host.rx = .byte 0x1D#8 :: [] :=
  ⟨live_online [], ⟨rfl, rfl, rfl⟩, rfl, by decide, rfl, rfl, rfl, rfl, rfl⟩
theorem witness_EchoProbeComparesTheEcho :
    let waiting := { online [.failure] with
      host := { (online [.failure]).host with awaiting := some ⟨1, .echo 0x41#8⟩ } }
    (online [.byte 0x41#8]).block.capActive = false ∧ (online [.byte 0x41#8]).host.channel = .clear ∧
    (online [.byte 0x41#8]).host.linkDown = false ∧
    (online [.byte 0x41#8]).host.rx = .byte 0x41#8 :: [] ∧ connecting (online [.byte 0x41#8]) = false ∧
    connecting (setTask (.connect []) (online [.byte 0x41#8])) = true ∧ (0x41#8 : Byte) ≠ 0x0D#8 ∧
    (online [.failure]).host.rx = .failure :: [] ∧
    waiting.host.awaiting = some ⟨1, .echo 0x41#8⟩ ∧ waiting.host.rx = .failure :: [] := by decide
theorem witness_StatusQueryReadsTheRecord :
    Live (online (delivered (List.replicate 80 0x20#8) [])) ∧
    connecting (online (delivered (List.replicate 80 0x20#8) [])) = false ∧ (List.replicate 80 0x20#8).length = 80 :=
  ⟨live_online _, by decide, by decide⟩
/-- Addresses at the edges of each clause: 8 and 119 are scanned, 7 and 120 are not. -/
theorem witness_ScanMapsAddresses :
    Live (online (delivered (List.replicate 112 0x31#8) [])) ∧ (List.replicate 112 (0x31#8 : Byte)).length = 112 ∧
    (List.replicate 112 (0x31#8 : Byte))[(8#7 : BitVec 7).toNat - 8]? = some 0x31#8 ∧
    (List.replicate 112 (0x31#8 : Byte))[(119#7 : BitVec 7).toNat - 8]? = some 0x31#8 ∧
    (7#7 : BitVec 7).toNat < 8 ∧ 119 < (120#7 : BitVec 7).toNat :=
  ⟨live_online _, by decide, by decide, by decide, by decide, by decide⟩
theorem witness_BusResetReadsTheLevels :
    Live (online [.byte 2#8]) ∧ (online [.byte 2#8]).host.rx = .byte 2#8 :: [] ∧
    Live (online [.failure]) ∧ (online [.failure]).host.rx = .failure :: [] ∧
    let waiting := { online [.failure] with host := { (online [.failure]).host with awaiting := some ⟨1, .busReset⟩ } }
    waiting.host.awaiting = some ⟨1, .busReset⟩ ∧ waiting.host.rx = .failure :: [] :=
  ⟨live_online _, rfl, live_online _, rfl, rfl, rfl⟩
theorem witness_I2cStartReadsItsAck : Live (online [.byte 1#8]) ∧ (online [.byte 1#8]).host.rx = .byte 1#8 :: [] :=
  ⟨live_online _, rfl⟩
theorem witness_WriteChunkSendsAndReadsItsAck :
    Live (online [.byte 1#8]) ∧ (online [.byte 1#8]).host.task = .idle ∧ (online [.byte 1#8]).host.rx = .byte 1#8 :: [] :=
  ⟨live_online _, rfl, rfl⟩
theorem witness_ReadChunkReadsItsBytes :
    Live (online (delivered [7#8] [])) ∧ (online (delivered [7#8] [])).host.task = .idle ∧
    [(7#8 : Byte)].length = (0#6 : BitVec 6).toNat + 1 :=
  ⟨live_online _, rfl, rfl⟩
/-- 65 bytes in two chunks (V-S8, V-S14). -/
theorem witness_WriteProcedureSendsEveryChunk :
    let s := { online (delivered [1#8, 0#8] []) with inputs := [.op (.write (List.replicate 65 7#8))] }
    s.Quiet ∧ Live s ∧ [(1#8 : Byte), 0#8].length = ((List.replicate 65 (7#8 : Byte)).length + 63) / 64 :=
  ⟨⟨rfl, rfl, rfl⟩, ⟨rfl, rfl, rfl, rfl⟩, by decide⟩
/-- Both policies of reading. -/
theorem witness_ReadProcedureReadsEveryChunk :
    let bytes := List.replicate 65 (7#8 : Byte)
    let s := { online (delivered bytes []) with inputs := [.op (.read bytes.length)] }
    s.Quiet ∧ Live s ∧ s.params.readChunk = .remaining ∧ 64 < bytes.length ∧ [(7#8 : Byte)].length ≤ 64 ∧
      ({ s with params := { Params.spec with readChunk := .reference } }).params.readChunk = .reference :=
  ⟨⟨rfl, rfl, rfl⟩, ⟨rfl, rfl, rfl, rfl⟩, rfl, by decide, by decide, rfl⟩
/-- A connect with these deliveries, for each clause: all right, the last echo wrong, the first echo's read failed. -/
theorem witness_ConnectSeedsTheBlock :
    let start := fun rx => { State.reset with inputs := [.op .connect], host := { Driver.reset with rx := rx } }
    (∀ rx, (start rx).Quiet ∧ (start rx).block.capActive = false ∧ (start rx).host.channel = .clear ∧
      (start rx).host.linkDown = false ∧ (start rx).inputs = .op .connect :: [] ∧ (start rx).host.rx = rx) ∧
    (List.replicate 80 (0x20#8 : Byte)).length = 80 ∧
    (0#8 : Byte) ≠ [0x41#8, 0x0D#8, 0x0A#8, 0xFF#8].getD 3 0#8 ∧
    delivered ([0x41#8, 0x0D#8, 0x0A#8, 0xFF#8].take 3 ++ [0#8]) []
      = [.byte 0x41#8, .byte 0x0D#8, .byte 0x0A#8, .byte 0#8] ∧
    delivered ([0x41#8, 0x0D#8, 0x0A#8, 0xFF#8].take 0) (.failure :: []) = [.failure] :=
  ⟨fun _ => ⟨⟨rfl, rfl, rfl⟩, rfl, rfl, rfl, rfl, rfl⟩, by decide, by decide, rfl, rfl⟩
/-- A short read, a read whose bytes are there, and a scan whose reply comes later, with a failure in it. -/
theorem witness_ReadWaitsForItsReply :
    let s := { session 0#16 with host := { Driver.reset with awaiting := some ⟨2, .readData⟩, rx := delivered [7#8] [] } }
    let full := { s with host := { s.host with rx := delivered [7#8, 8#8] [] } }
    s.host.awaiting = some ⟨2, .readData⟩ ∧ s.host.rx = delivered [7#8] [] ∧ [(7#8 : Byte)].length < 2 ∧
      s.inputs.head? ≠ some .reset ∧ s.inputs.head? ≠ some .exit ∧ s.inputs.head? ≠ some (.op .close) ∧
      full.host.awaiting = some ⟨2, .readData⟩ ∧ full.host.rx = delivered [7#8, 8#8] [] ∧
      [(7#8 : Byte), 8#8].length = 2 ∧
      onBlock .hostScan = false ∧ (online []).host.awaiting = none ∧
      nextIs (exec .hostScan (online [])) (fun t =>
        decide (t.host.awaiting = some ⟨112, .scan⟩ ∧ replyOf ⟨112, .scan⟩ (withMore [.failure] t) ≠ .short)) = true := by
  decide
theorem witness_TransportErrorTearsDown :
    let down := { session 0#16 with host := { Driver.reset with linkDown := true } }
    let waiting := { session 0#16 with
      host := { Driver.reset with awaiting := some ⟨2, .status⟩, rx := delivered [7#8] [.failure] } }
    onBlock .hostScan = false ∧ down.block.capActive = false ∧ down.host.channel = .clear ∧ mayBeSent .hostScan down ∧
      mayBeSent (.hostEchoProbe 0x41#8) .reset ∧ mayBeSent .hostStatus (setTask (.connect []) .reset) ∧
      down.host.linkDown = true ∧
      waiting.host.awaiting = some ⟨2, .status⟩ ∧ waiting.host.rx = delivered [7#8] (.failure :: []) ∧
      [(7#8 : Byte)].length < 2 ∧ (∀ test, Purpose.status ≠ .echo test) ∧ Purpose.status ≠ .busReset :=
  ⟨rfl, rfl, rfl, fun _ => .inl rfl, (fun h => nomatch h), fun _ => .inr ⟨rfl, rfl⟩, rfl, rfl, rfl, by decide,
    (fun _ h => nomatch h), (fun h => nomatch h)⟩
theorem witness_DeadlineEndsOnlyTimedReads :
    let s := fun p => { session 0#16 with
      host := { Driver.reset with awaiting := some ⟨2, p⟩, rx := delivered [7#8] [.deadline] } }
    let timed := fun p => { s p with params := { Params.spec with timeout := some 1 } }
    (∀ p, (s p).host.awaiting = some ⟨2, p⟩ ∧ (s p).host.rx = delivered [7#8] (.deadline :: []) ∧
      (s p).params.timeout = none ∧ (timed p).host.awaiting = some ⟨2, p⟩ ∧
      (timed p).host.rx = delivered [7#8] (.deadline :: []) ∧ (timed p).params.timeout = some 1) ∧
    [(7#8 : Byte)].length < 2 ∧ (∀ test, Purpose.status ≠ .echo test) ∧ Purpose.status ≠ .busReset :=
  ⟨fun _ => ⟨rfl, rfl, rfl, rfl, rfl, rfl⟩, by decide, (fun _ h => nomatch h), (fun h => nomatch h)⟩
theorem witness_CancelDiscardsThePartialGroup :
    let s := { capture true 0b111111#9 6#4 with inputs := [.op .close] }
    let stream := { s with host := { Driver.reset with awaiting := some ⟨1, .captureByte⟩ } }
    let hung := { session 0#16 with
      inputs := [.exit], host := { Driver.reset with awaiting := some ⟨80, .status⟩, rx := delivered [7#8] [] } }
    s.issued = [] ∧ s.inputs = .op .close :: [] ∧ s.host.awaiting = none ∧ s.host.task = .idle ∧
      stream.host.awaiting = some ⟨1, .captureByte⟩ ∧ stream.host.rx = delivered [] [] ∧ ([] : List Byte).length < 1 ∧
      hung.issued = [] ∧ hung.inputs = .exit :: [] ∧ hung.host.awaiting = some ⟨80, .status⟩ ∧
      hung.host.rx = delivered [7#8] [] ∧ [(7#8 : Byte)].length < 80 := by decide
theorem witness_ChunkCommandsKeepTheirRanges :
    (List.replicate 64 (0#8 : Byte)).length = (63#6 : BitVec 6).toNat + 1 ∧
    [(0#8 : Byte)].length = (0#6 : BitVec 6).toNat + 1 := by decide

end Sys2Proof.Tests
end

section
/-! An expired deadline (00_scope.md R9, 60_exceptions.md R166): how far a read gets that meets one, what its end then is, and
the statement about both. -/

namespace Sys2Proof.Claims

open Sys2Proof.Machine

/-! ## How a timed read ends -/

/-- A read that meets an expired deadline times out where a deadline is set. -/
theorem replyOf_timedOut {s : State} {a : Await} {bytes : List Byte} {rest : List Delivery} {d : Nat}
    (hrx : s.host.rx = delivered bytes (.deadline :: rest)) (hlen : bytes.length < a.count)
    (ht : s.params.timeout = some d) : replyOf a s = .timedOut rest := by
  rw [replyOf, ht, hrx]
  exact takeReply_timedOut rest hlen

/-- Where no deadline is set, a read gets as far as it would without the expired one. -/
theorem replyOf_no_deadline {s : State} {a : Await} {bytes : List Byte} {rest : List Delivery}
    (hrx : s.host.rx = delivered bytes (.deadline :: rest)) (hlen : bytes.length < a.count)
    (ht : s.params.timeout = none) :
    replyOf a s = replyOf a { s with host := { s.host with rx := delivered bytes rest } } := by
  simp only [replyOf, ht, hrx]
  exact takeReply_no_deadline rest hlen

/-- A step of a read that times out ends the read and has the effect of the expired deadline. -/
theorem step_of_timedOut {s : State} {a : Await} {rest : List Delivery} (hw : s.host.awaiting = some a)
    (h : replyOf a s = .timedOut rest) : step s = .next (readTimedOut a.purpose (endRead rest s)) := by
  rw [step_of_waiting hw, waitStep_of_reply (by simp [h]), resumeRead, h]

/-- Only a probe and a bus reset take an expired deadline as a short read. -/
theorem readTimedOut_of_other {p : Purpose} (he : ∀ test, p ≠ .echo test) (hb : p ≠ .busReset) (s : State) :
    readTimedOut p s = finish .timeout s := by
  cases p with
  | echo test => exact absurd rfl (he test)
  | busReset => exact absurd rfl hb
  | status | scan | startAck | writeAck _ | readData | captureByte => rfl

/-! ## A read that ends with a result and nothing else -/

theorem report_endRead (r : HostResult) (rest : List Delivery) (s : State) :
    report r (endRead rest s) = exchanged s [] rest s.host.task [r] [] := by
  simp [report, endRead, exchanged]

theorem finish_endRead (r : HostResult) (rest : List Delivery) (s : State) :
    finish r (endRead rest s) = exchanged s [] rest .idle [r] [] := by
  simp [finish, report, setTask, endRead, exchanged]

/-! ## The statement -/

/-- Settles O57: a set deadline makes the reply `timedOut`, whose effect is read off by the purpose; without one the reply is
that of the deliveries without the item. -/
theorem deadlineEndsOnlyTimedReads : Obligations.DeadlineEndsOnlyTimedReads := by
  intro s a bytes rest hw hrx hlen
  refine ⟨fun d ht => ?_, replyOf_no_deadline hrx hlen⟩
  have hstep := step_of_timedOut hw (replyOf_timedOut hrx hlen ht)
  refine ⟨fun test hp => ?_, fun hp => ?_, fun he hb => ?_⟩
  · rw [hstep, hp, readTimedOut, finish_endRead]
  · rw [hstep, hp, readTimedOut, report_endRead]
  · rw [hstep, readTimedOut_of_other he hb, finish_endRead]

end Sys2Proof.Claims
end

section
/-! The block's registers (10_state.md): what one instruction can write into them and what one step can, each said once, and
the statements about the invariants, the sticky flags, the session, the capture mode, `crc`, reset and the placing of a word. -/

namespace Sys2Proof.Claims

open Sys2Proof.Machine

/-! ## The registers an instruction can write -/

/-- At most one more bit of `err_flags` is set, one of bits 5:0 (10_state.md R27, 60_exceptions.md R162). -/
inductive Flagged (b : Block) : Block → Prop
  | same : Flagged b b
  | set {k : Nat} (hk : k < 6) : Flagged b (setFlag k b)

/-- The decoder consumes one symbol without an error. -/
def SymbolMove (b c : Block) : Prop := ∃ p n ev, symbolStep p n b = .ok (c, ev)

/-- What an instruction can write into the registers, the setting of a flag aside. Every row that hands symbols to the
decoder writes what those symbols write, so `symbols` does not say which row it is. -/
inductive BlockWrite : Instr → Block → Block → Prop
  | nothing (i : Instr) (b : Block) : BlockWrite i b b
  | seed (v : Word) {b : Block} (free : b.capActive = false) :
      BlockWrite (.crcSeed v) b { b with crc := v, connected := true }
  | updateByte (x : Byte) {b : Block} (free : b.capActive = false) (session : b.connected = true) :
      BlockWrite (.crcUpdateByte x) b { b with crc := crcByte b.crc x }
  | updateNibble (n : Nibble) {b : Block} (free : b.capActive = false) (session : b.connected = true) :
      BlockWrite (.crcUpdateNibble n) b { b with crc := crcNib b.crc n }
  | enter {b : Block} (free : b.capActive = false) (session : b.connected = true) :
      BlockWrite .capEnter b { b with capActive := true, pendingStart := false, accValue := 0#9, accCount := 0#4 }
  | symbols (i : Instr) {b c : Block} (capturing : b.capActive = true) (run : Relation.ReflTransGen SymbolMove b c) :
      BlockWrite i b c
  | disconnect (b : Block) : BlockWrite .disconnect b (disconnected b)

/-- What an instruction can do to the block: a write, then perhaps a flag. -/
def BlockMove (i : Instr) (b d : Block) : Prop := ∃ c, BlockWrite i b c ∧ Flagged c d

theorem BlockWrite.move {i : Instr} {b c : Block} (w : BlockWrite i b c) : BlockMove i b c := ⟨c, w, .same⟩

theorem Flagged.move {b d : Block} (i : Instr) (f : Flagged b d) : BlockMove i b d := ⟨b, .nothing i b, f⟩

theorem BlockMove.of_eq {b d : Block} (i : Instr) (h : d = b) : BlockMove i b d := h ▸ (BlockWrite.nothing i b).move

/-- An error sets one of bits 4:0. -/
theorem errorBit_lt (e : ErrorKind) : errorBit e < 6 := by cases e <;> decide

theorem raiseError_flagged {e : ErrorKind} {events : List BusEvent} {s t : State}
    (h : raiseError e events s = .next t) : Flagged s.block t.block := by
  cases h
  exact .set (errorBit_lt e)

theorem succeed_block {data : Word} {events : List BusEvent} {s t : State} (h : succeed data events s = .next t) :
    t.block = s.block := by
  cases h
  rfl

/-! ## The conditions of a request -/

section Gates

variable {i : Instr} {k : State → Result} {s t : State}

theorem whenNotCapturing_blockMove
    (hk : s.block.capActive = false → k s = .next t → BlockMove i s.block t.block)
    (h : whenNotCapturing k s = .next t) : BlockMove i s.block t.block := by
  cases hc : s.block.capActive with
  | true => exact (raiseError_flagged (whenNotCapturing_of_capturing k hc ▸ h)).move i
  | false => exact hk hc (whenNotCapturing_of_free k hc ▸ h)

theorem whenInSession_blockMove
    (hk : s.block.capActive = false → s.block.connected = true → k s = .next t → BlockMove i s.block t.block)
    (h : whenInSession k s = .next t) : BlockMove i s.block t.block := by
  refine whenNotCapturing_blockMove (fun hc h => ?_) h
  cases hs : s.block.connected with
  | true => exact hk hc hs (by simpa [hs] using h)
  | false => exact (raiseError_flagged (by simpa [hs] using h)).move i

theorem whenCapturing_blockMove
    (hk : s.block.capActive = true → k s = .next t → BlockMove i s.block t.block)
    (h : whenCapturing k s = .next t) : BlockMove i s.block t.block := by
  cases hc : s.block.capActive with
  | true => exact hk hc (whenCapturing_of_capturing k hc ▸ h)
  | false => exact (raiseError_flagged (whenCapturing_of_free k hc ▸ h)).move i

end Gates

/-! ## The requests of the decoder -/

theorem execCapSymbol_blockMove (i : Instr) {n : Nibble} {s t : State} (h : execCapSymbol n s = .next t) :
    BlockMove i s.block t.block := by
  refine whenCapturing_blockMove (fun hc h => ?_) h
  cases hr : symbolStep s.params.reservedSymbol n s.block with
  | error e =>
    rw [hr] at h
    exact (raiseError_flagged h).move i
  | ok r =>
    obtain ⟨c, ev⟩ := r
    rw [hr] at h
    rw [succeed_block h]
    exact (BlockWrite.symbols i hc (.single ⟨_, _, _, hr⟩)).move

/-- CAP_BYTE is one symbol step or two; the second may fail after the first has written (60_exceptions.md R163). -/
theorem execCapByte_blockMove (i : Instr) {x : Byte} {s t : State} (h : execCapByte x s = .next t) :
    BlockMove i s.block t.block := by
  refine whenCapturing_blockMove (fun hc h => ?_) h
  cases hr : symbolStep s.params.reservedSymbol (highNibble x) s.block with
  | error e =>
    rw [hr] at h
    exact (raiseError_flagged h).move i
  | ok r =>
    obtain ⟨c, ev⟩ := r
    have first : Relation.ReflTransGen SymbolMove s.block c := .single ⟨_, _, _, hr⟩
    cases hq : symbolStep s.params.reservedSymbol (lowNibble x) c with
    | error e =>
      simp only [hr, hq] at h
      exact ⟨c, .symbols i hc first, raiseError_flagged h⟩
    | ok q =>
      obtain ⟨d, ev'⟩ := q
      simp only [hr, hq] at h
      rw [succeed_block h]
      exact (BlockWrite.symbols i hc (first.tail ⟨_, _, _, hq⟩)).move

/-- A data symbol on its own is CAP_SYMBOL of it (30_encoding.md R55). -/
theorem execSymData_eq_execCapSymbol (d : BitVec 3) : execSymData d = execCapSymbol (0b1#1 ++ d) := by
  have data : symbolData (0b1#1 ++ d) = d := by revert d; decide
  have cls : (0b1#1 ++ d : Nibble).getLsbD 3 = true := by revert d; decide
  funext s
  simp only [execSymData, execCapSymbol, symbolStep, data, if_pos cls]

/-! ## Every instruction -/

/-- A bridge command is an operation of the driver: it sends its own encoding or nothing. -/
theorem exec_commandMove {i : Instr} {s t : State} (hi : onBlock i = false) (h : exec i s = .next t) :
    CommandMove (encodeCommand i) s t := by
  cases i with
  | hostMonitorOff | hostMonitorOn | hostI2cStop =>
    exact whenLive_move (fun _ _ => writeExact_move fun _ _ => noReply_move) h
  | hostEnterCapture =>
    refine whenLive_move (fun _ _ => writeExact_move fun s _ h => ?_) h
    exact ((beginStream_move s).trans (issue_move _ _)).trans (noReply_move h)
  | hostStatus =>
    rw [exec_hostStatus, execHostStatus] at h
    split at h
    · exact whenOpen_move (fun _ _ => writeExact_move fun _ _ => readExact_move _ _) h
    · exact whenLive_move (fun _ _ => writeExact_move fun _ _ => readExact_move _ _) h
  | hostEchoProbe test => exact whenOpen_move (fun _ _ => writeExact_move fun _ _ => readExact_move _ _) h
  | hostScan | hostI2cStart _ _ | hostBusReset | hostReadChunk _ | hostWriteChunk _ _ =>
    exact whenLive_move (fun _ _ => writeExact_move fun _ _ => readExact_move _ _) h
  | _ => cases hi

/-- Everything an instruction can do to the block's registers. -/
theorem exec_blockMove {i : Instr} {s t : State} (h : exec i s = .next t) : BlockMove i s.block t.block := by
  cases i with
  | crcSeed v =>
    rw [exec_crcSeed] at h
    refine whenNotCapturing_blockMove (fun hc h => ?_) h
    rw [succeed_block h]
    exact (BlockWrite.seed v hc).move
  | crcUpdateByte b =>
    rw [exec_crcUpdateByte] at h
    refine whenInSession_blockMove (fun hc hs h => ?_) h
    rw [succeed_block h]
    exact (BlockWrite.updateByte b hc hs).move
  | crcUpdateNibble n =>
    rw [exec_crcUpdateNibble] at h
    refine whenInSession_blockMove (fun hc hs h => ?_) h
    rw [succeed_block h]
    exact (BlockWrite.updateNibble n hc hs).move
  | crcRead => exact whenInSession_blockMove (fun _ _ h => .of_eq _ (succeed_block h)) h
  | crcCheck v =>
    rw [exec_crcCheck] at h
    refine whenInSession_blockMove (fun _ _ h => ?_) h
    split at h
    · exact .of_eq _ (succeed_block h)
    · rw [succeed_block h]
      exact (Flagged.set (by decide)).move _
  | capEnter =>
    rw [exec_capEnter] at h
    refine whenInSession_blockMove (fun hc hs h => ?_) h
    rw [succeed_block h]
    exact (BlockWrite.enter hc hs).move
  | capSymbol n => exact execCapSymbol_blockMove _ h
  | capByte b => exact execCapByte_blockMove _ h
  | disconnect =>
    rw [succeed_block h]
    exact (BlockWrite.disconnect s.block).move
  | errRead => exact .of_eq _ (succeed_block h)
  | reservedOp0 _ | reservedOpB _ | reservedOpC _ | reservedOpD _ | reservedOpE _ | reservedOpF _ =>
    exact (raiseError_flagged h).move _
  | symIdle => exact execCapSymbol_blockMove (n := 0x0#4) _ h
  | symStart => exact execCapSymbol_blockMove (n := 0x1#4) _ h
  | symStop => exact execCapSymbol_blockMove (n := 0x2#4) _ h
  | symReserved3 | symReserved4To7 _ => exact execCapSymbol_blockMove (n := 0x3#4) _ h
  | symData d =>
    rw [exec_symData, execSymData_eq_execCapSymbol] at h
    exact execCapSymbol_blockMove _ h
  | _ => exact .of_eq _ (exec_commandMove rfl h).block

/-! ## What a write keeps -/

/-- The symbols of a capture write the decoder's registers only. -/
theorem decoderMove_of_symbols {b c : Block} (run : Relation.ReflTransGen SymbolMove b c) : DecoderMove b c := by
  induction run with
  | refl => exact ⟨rfl, rfl, rfl, rfl⟩
  | tail _ step ih =>
    obtain ⟨_, _, _, h⟩ := step
    have m := symbolStep_move h
    exact ⟨m.crc.trans ih.crc, m.connected.trans ih.connected, m.capActive.trans ih.capActive,
      m.errFlags.trans ih.errFlags⟩

theorem BlockWrite.errFlags {i : Instr} {b c : Block} (w : BlockWrite i b c) : c.errFlags = b.errFlags := by
  cases w with
  | symbols _ _ run => exact (decoderMove_of_symbols run).errFlags
  | nothing | seed | updateByte | updateNibble | enter | disconnect => rfl

theorem Flagged.errFlags_sticky {b d : Block} (f : Flagged b d) {j : Nat} (h : b.errFlags.getLsbD j = true) :
    d.errFlags.getLsbD j = true := by
  cases f with
  | same => exact h
  | set _ => simp [h]

theorem Flagged.crc {b d : Block} (f : Flagged b d) : d.crc = b.crc := by cases f <;> rfl

theorem Flagged.connected {b d : Block} (f : Flagged b d) : d.connected = b.connected := by cases f <;> rfl

theorem Flagged.capActive {b d : Block} (f : Flagged b d) : d.capActive = b.capActive := by cases f <;> rfl

theorem BlockMove.errFlags_sticky {i : Instr} {b d : Block} (m : BlockMove i b d) {j : Nat}
    (h : b.errFlags.getLsbD j = true) : d.errFlags.getLsbD j = true := by
  obtain ⟨c, w, f⟩ := m
  exact f.errFlags_sticky (w.errFlags ▸ h)

/-! ## The invariants -/

/-- The accumulator between two symbols (10_state.md R25, R26). -/
def AccFits (b : Block) : Prop := b.accCount ∈ accCounts ∧ b.accValue.toNat < 2 ^ b.accCount.toNat

/-- An empty accumulator fits. -/
theorem accFits_of_empty {b : Block} (hc : b.accCount = 0#4) (hv : b.accValue = 0#9) : AccFits b := by
  simp [AccFits, accCounts, hc, hv]

theorem completeGroup_accFits (b : Block) : AccFits (completeGroup b).1 := by
  unfold completeGroup
  split <;> exact accFits_of_empty rfl rfl

/-- Three more bits fit three more places. -/
theorem appendBits_value_lt (d : BitVec 3) {b : Block} {k : Nat} (h : b.accValue.toNat < 2 ^ k) :
    (appendBits d b).accValue.toNat < 2 ^ (k + 3) := by
  have shifted : (b.accValue <<< 3).toNat < 2 ^ (k + 3) := by
    rw [BitVec.toNat_shiftLeft, Nat.shiftLeft_eq, Nat.pow_add]
    exact (Nat.mod_le _ _).trans_lt (Nat.mul_lt_mul_of_pos_right h (by decide))
  have low : (d.zeroExtend 9).toNat < 2 ^ (k + 3) := by
    have : (d.zeroExtend 9).toNat < 2 ^ 3 := by simpa using (Nat.mod_le _ _).trans_lt d.isLt
    exact this.trans_le (Nat.pow_le_pow_right (by decide) (by omega))
  simpa [appendBits] using Nat.or_lt_two_pow shifted low

/-- A data symbol that completes no group leaves three or six bits. -/
theorem appendBits_accFits (d : BitVec 3) {b : Block} (h : AccFits b) (h9 : (appendBits d b).accCount ≠ 9#4) :
    AccFits (appendBits d b) := by
  obtain ⟨hc, hv⟩ := h
  have count : (appendBits d b).accCount = b.accCount + 3#4 := rfl
  have value := appendBits_value_lt d hv
  simp only [accCounts, List.mem_cons, List.not_mem_nil, or_false] at hc
  unfold AccFits
  rw [count] at h9 ⊢
  rcases hc with e | e | e <;> rw [e] at h9 value ⊢
  · exact ⟨by decide, value⟩
  · exact ⟨by decide, value⟩
  · exact absurd rfl h9

theorem stepData_accFits {d : BitVec 3} {b c : Block} {ev : Option BusEvent} (h : AccFits b)
    (hs : stepData d b = .ok (c, ev)) : AccFits c := by
  obtain ⟨-, e⟩ | ⟨h9, e⟩ := stepData_cases d b <;> rw [e] at hs
  · have hc : (completeGroup (appendBits d b)).1 = c := by rw [Except.ok.inj hs]
    exact hc ▸ completeGroup_accFits _
  · cases hs
    exact appendBits_accFits d h h9

theorem symbolStep_accFits {p : ReservedSymbolPolicy} {n : Nibble} {b c : Block} {ev : Option BusEvent}
    (h : AccFits b) (hs : symbolStep p n b = .ok (c, ev)) : AccFits c := by
  obtain ⟨-, e⟩ | ⟨-, e⟩ | ⟨-, e⟩ | ⟨-, e⟩ | ⟨-, -, e⟩ := symbolStep_cases p n b <;> rw [e] at hs
  · exact stepData_accFits h hs
  · cases hs; exact h
  · cases hs; exact h
  · cases hs; exact h
  · cases p with
    | fault => cases hs
    | ignore => cases hs; exact h

theorem symbols_accFits {b c : Block} (h : AccFits b) (run : Relation.ReflTransGen SymbolMove b c) : AccFits c := by
  induction run with
  | refl => exact h
  | tail _ step ih =>
    obtain ⟨_, _, _, hs⟩ := step
    exact symbolStep_accFits ih hs

/-- In capture mode the invariants say only that there is a session, that the accumulator fits and that bits 7:6 are 0. -/
theorem inv_of_capturing {b : Block} (capturing : b.capActive = true) (session : b.connected = true) (acc : AccFits b)
    (flags : b.errFlags.extractLsb' 6 2 = 0#2) : b.Inv where
  capture_needs_session _ := session
  decoder_clear_outside_capture h := by simp [capturing] at h
  crc_zero_without_session h := by simp [session] at h
  count_reachable := acc.1
  value_fits_count := acc.2
  reserved_flags_zero := flags

/-- Without a session and without a capture every register but `err_flags` is zero. -/
theorem disconnected_inv {b : Block} (flags : b.errFlags.extractLsb' 6 2 = 0#2) : (disconnected b).Inv where
  capture_needs_session h := h
  decoder_clear_outside_capture _ := ⟨rfl, rfl, rfl⟩
  crc_zero_without_session _ := rfl
  count_reachable := (accFits_of_empty rfl rfl).1
  value_fits_count := (accFits_of_empty rfl rfl).2
  reserved_flags_zero := flags

theorem reset_inv : Block.reset.Inv := disconnected_inv (b := Block.reset) (by decide)

theorem BlockWrite.inv {i : Instr} {b c : Block} (h : b.Inv) (w : BlockWrite i b c) : c.Inv := by
  cases w with
  | nothing => exact h
  | seed v free =>
    exact { h with
      capture_needs_session := fun _ => rfl
      crc_zero_without_session := fun no => by cases no }
  | updateByte x free session => exact { h with crc_zero_without_session := fun no => by simp [session] at no }
  | updateNibble n free session => exact { h with crc_zero_without_session := fun no => by simp [session] at no }
  | enter free session => exact inv_of_capturing rfl session (accFits_of_empty rfl rfl) h.reserved_flags_zero
  | symbols i capturing run =>
    have m := decoderMove_of_symbols run
    exact inv_of_capturing (m.capActive.trans capturing) (m.connected.trans (h.capture_needs_session capturing))
      (symbols_accFits ⟨h.count_reachable, h.value_fits_count⟩ run) (m.errFlags ▸ h.reserved_flags_zero)
  | disconnect => exact disconnected_inv h.reserved_flags_zero

/-- Bits 5:0 of `err_flags` are none of the bits 7:6. -/
theorem flag_below_reserved : ∀ k < 6, (1#8 <<< k).extractLsb' 6 2 = 0#2 := by decide

theorem Flagged.inv {b d : Block} (h : b.Inv) (f : Flagged b d) : d.Inv := by
  cases f with
  | same => exact h
  | @set k hk =>
    exact { h with
      reserved_flags_zero := by
        rw [setFlag_errFlags, BitVec.extractLsb'_or, h.reserved_flags_zero, flag_below_reserved k hk]; rfl }

theorem BlockMove.inv {i : Instr} {b d : Block} (h : b.Inv) (m : BlockMove i b d) : d.Inv := by
  obtain ⟨c, w, f⟩ := m
  exact f.inv (w.inv h)

/-! ## Every step -/

/-- A step that takes the reset signal off the inputs. -/
def TakesReset (xs : List Input) (t : State) : Prop := xs = .reset :: t.inputs ∧ t.block = Block.reset

/-- What can come of looking for the next thing to do, where the block is `b` and the inputs are `xs`: an instruction that
runs on this block, or the step's own end. -/
def FetchedFrom (b : Block) (xs : List Input) : Fetched → Prop
  | .run _ s => s.block = b
  | .done o => ∀ t, o = .next t → Flagged b t.block ∨ TakesReset xs t

theorem fetchedFrom_done {b : Block} {xs : List Input} {t : State} (h : t.block = b) :
    FetchedFrom b xs (.done (.next t)) := by
  rintro _ ⟨⟩
  exact .inl (h ▸ .same)

theorem fetchedFrom_refused (b : Block) (xs : List Input) (r : Refusal) : FetchedFrom b xs (.done (.refused r)) := by
  rintro _ ⟨⟩

theorem fetchRequest_from (xs : List Input) (w : RequestWord) (s : State) :
    FetchedFrom s.block xs (fetchRequest w s) := by
  unfold fetchRequest
  split
  · exact rfl
  · exact fun t h => .inl (raiseError_flagged h)

theorem pushBack_block (rest : List Byte) (s : State) : (pushBack rest s).block = s.block := by cases rest <;> rfl

theorem fetchCommand_from (xs : List Input) (bytes : List Byte) (s : State) :
    FetchedFrom s.block xs (fetchCommand bytes s) := by
  unfold fetchCommand
  split
  · exact pushBack_block _ s
  · exact fetchedFrom_refused _ _ _
  · exact fetchedFrom_refused _ _ _
  · exact fetchedFrom_done rfl
  · exact fetchedFrom_done rfl

theorem startWrite_move {bytes : List Byte} {s t : State} (h : startWrite bytes s = .next t) : DriverMove s t := by
  cases bytes with
  | nil => cases h; exact finish_move _ s
  | cons b left => cases h; exact setTask_move _ s

theorem startRead_move {count : Nat} {s t : State} (h : startRead count s = .next t) : DriverMove s t := by
  unfold startRead at h
  split at h
  · cases h
  · cases count with
    | zero => cases h; exact finish_move _ s
    | succ n => cases h; exact setTask_move _ s

theorem whenStreaming_move {bytes : List Byte} {k : State → Result}
    (hk : ∀ s t, k s = .next t → CommandMove bytes s t) {s t : State} (h : whenStreaming k s = .next t) :
    CommandMove bytes s t := by
  unfold whenStreaming at h
  split at h
  · split at h
    · exact hk s t h
    · exact hk s t h
    · cases h; exact (finish_move _ s).command bytes
  · cases h; exact (finish_move _ s).command bytes

/-- The beginning of a procedure sends nothing and is an operation of the driver. -/
theorem startOp_move {o : HostOp} {s t : State} (h : startOp o s = .next t) : CommandMove [] s t := by
  cases o with
  | connect => exact whenOpen_move (fun s t h => by cases h; exact (setTask_move _ s).command []) h
  | write bytes => exact whenLive_move (fun _ _ h => (startWrite_move h).command []) h
  | read count => exact whenLive_move (fun _ _ h => (startRead_move h).command []) h
  | captureRead =>
    exact whenStreaming_move (fun s t h => ((beginStream_move s).trans (readExact_move _ _ h)).command []) h
  | close => cases h; exact (tearDown_move _ s).command []

theorem fetchInput_from (x : Input) (s : State) : FetchedFrom s.block (x :: s.inputs) (fetchInput x s) := by
  cases x with
  | code e =>
    cases e with
    | request w => exact noteRequest_block s w ▸ fetchRequest_from _ w (noteRequest w s)
    | symbol n => exact rfl
    | command bytes => exact fetchCommand_from _ bytes s
  | op o => exact fun t h => .inl ((startOp_move h).block ▸ .same)
  | reset => rintro _ ⟨⟩; exact .inr ⟨rfl, rfl⟩
  | exit => exact fetchedFrom_done (tearDown_move _ s).block

theorem waitStep_from (a : Await) (s : State) : FetchedFrom s.block s.inputs (.done (.next (waitStep a s))) := by
  have resumed : FetchedFrom s.block s.inputs (.done (.next (resumeRead a s))) :=
    fetchedFrom_done (resumeRead_move a s).block
  unfold waitStep
  split
  · split
    · next rest hx => rintro _ ⟨⟩; exact .inr ⟨hx, rfl⟩
    · exact fetchedFrom_done rfl
    · split <;> exact fetchedFrom_done rfl
    · exact fetchedFrom_done rfl
  all_goals exact resumed

theorem nextCommand_block {s s' : State} {i : Instr} (h : nextCommand s = some (i, s')) : s'.block = s.block := by
  unfold nextCommand at h
  split at h <;> cases h <;> rfl

theorem fetch_from (s : State) : FetchedFrom s.block s.inputs (fetch s) := by
  unfold fetch
  split
  · exact waitStep_from _ s
  · split
    · exact fetchRequest_from s.inputs _ { s with issued := _ }
    · split
      · next h => exact nextCommand_block h
      · split
        · exact fetchedFrom_done rfl
        · next x xs hx => exact hx ▸ fetchInput_from x { s with inputs := xs }

/-- Everything a step can do to the block: it runs an instruction on it, it takes the reset signal, or it sets at most one
flag. -/
theorem step_block {s t : State} (h : step s = .next t) :
    (∃ i, BlockMove i s.block t.block) ∨ TakesReset s.inputs t ∨ Flagged s.block t.block := by
  have fetched := fetch_from s
  unfold step at h
  cases hf : fetch s with
  | run i s' =>
    rw [hf] at h fetched
    have hb : s'.block = s.block := fetched
    exact .inl ⟨i, hb ▸ exec_blockMove h⟩
  | done o =>
    rw [hf] at h fetched
    exact .inr (fetched t h).symm

/-! ## The statements about every step -/

/-- Settles O32: what an instruction can write keeps the invariants, a flag below bit 6 does, and the reset block has them. -/
theorem stepKeepsTheInvariants : Obligations.StepKeepsTheInvariants := by
  intro s t hs h
  unfold State.Inv at hs ⊢
  obtain ⟨i, m⟩ | ⟨-, hb⟩ | f := step_block h
  · exact m.inv hs
  · exact hb ▸ reset_inv
  · exact f.inv hs

/-- Settles O30: no write of an instruction reaches `err_flags`, and a flag is only ever set; the reset signal is excluded. -/
theorem errFlagsAreSticky : Obligations.ErrFlagsAreSticky := by
  intro s t h hr j hj
  obtain ⟨i, m⟩ | ⟨hx, -⟩ | f := step_block h
  · exact m.errFlags_sticky hj
  · exact absurd hx hr
  · exact f.errFlags_sticky hj

/-! ## The session, the capture mode and `crc` -/

theorem BlockWrite.connected_cases {i : Instr} {b c : Block} (w : BlockWrite i b c) :
    c.connected = b.connected ∨ (c.connected = true ∧ ∃ v, i = .crcSeed v) ∨ (c.connected = false ∧ i = .disconnect) := by
  cases w with
  | seed v _ => exact .inr (.inl ⟨rfl, v, rfl⟩)
  | disconnect => exact .inr (.inr ⟨rfl, rfl⟩)
  | symbols _ _ run => exact .inl (decoderMove_of_symbols run).connected
  | nothing | updateByte | updateNibble | enter => exact .inl rfl

theorem BlockWrite.capActive_cases {i : Instr} {b c : Block} (w : BlockWrite i b c) :
    c.capActive = b.capActive ∨ (c.capActive = true ∧ i = .capEnter) ∨ (c.capActive = false ∧ i = .disconnect) := by
  cases w with
  | enter => exact .inr (.inl ⟨rfl, rfl⟩)
  | disconnect => exact .inr (.inr ⟨rfl, rfl⟩)
  | symbols _ _ run => exact .inl (decoderMove_of_symbols run).capActive
  | nothing | seed | updateByte | updateNibble => exact .inl rfl

theorem BlockWrite.crc_cases {i : Instr} {b c : Block} (w : BlockWrite i b c) (h : c.crc ≠ b.crc) :
    i = .disconnect ∨
    (b.capActive = false ∧
      ((∃ v, i = .crcSeed v) ∨
        (b.connected = true ∧ ((∃ x, i = .crcUpdateByte x) ∨ ∃ n, i = .crcUpdateNibble n)))) := by
  cases w with
  | disconnect => exact .inl rfl
  | seed v free => exact .inr ⟨free, .inl ⟨v, rfl⟩⟩
  | updateByte x free session => exact .inr ⟨free, .inr ⟨session, .inl ⟨x, rfl⟩⟩⟩
  | updateNibble n free session => exact .inr ⟨free, .inr ⟨session, .inr ⟨n, rfl⟩⟩⟩
  | symbols _ _ run => exact absurd (decoderMove_of_symbols run).crc h
  | nothing | enter => exact absurd rfl h

/-- Settles O33: read off the writes that reach `connected` and those that reach `cap_active`. -/
theorem sessionAndCaptureChangeOnlyBy : Obligations.SessionAndCaptureChangeOnlyBy := by
  intro i s t h
  obtain ⟨c, w, f⟩ := exec_blockMove h
  rw [f.connected, f.capActive]
  have hs := w.connected_cases
  have hc := w.capActive_cases
  refine ⟨fun h0 h1 => ?_, fun h1 h0 => ?_, fun h0 h1 => ?_, fun h1 h0 => ?_⟩
  · simpa [h0, h1] using hs
  · simpa [h0, h1] using hs
  · simpa [h0, h1] using hc
  · simpa [h0, h1] using hc

/-- Settles O34: read off the writes that reach `crc`, with the conditions under which they are made. -/
theorem crcChangesOnlyBy : Obligations.CrcChangesOnlyBy := by
  intro i s t h hne
  obtain ⟨c, w, f⟩ := exec_blockMove h
  exact w.crc_cases (f.crc ▸ hne)

/-! ## The next input of a quiet machine -/

theorem fetch_of_input {s : State} {x : Input} {xs : List Input} (hq : s.Quiet) (h : s.inputs = x :: xs) :
    fetch s = fetchInput x { s with inputs := xs } := by
  obtain ⟨ha, hi, ht⟩ := hq
  simp [fetch, ha, hi, nextCommand, ht, h]

theorem step_of_reset {s : State} {xs : List Input} (hq : s.Quiet) (h : s.inputs = .reset :: xs) :
    step s = .next (resetSignal { s with inputs := xs }) := by
  simp [step, fetch_of_input hq h, fetchInput]

/-- Settles O31: the reset block is a disconnected block without flags. -/
theorem resetHasTheInvariants : Obligations.ResetHasTheInvariants := reset_inv

/-- Settles O37: the reset signal, taken by a quiet machine, puts the block at its reset value. -/
theorem resetSetsEveryRegister : Obligations.ResetSetsEveryRegister :=
  ⟨rfl, fun _ _ hq h => ⟨_, step_of_reset hq h, rfl⟩⟩

/-! ## A placed word -/

theorem eq_zero_of_operandNone {x : Word} (h : operandNone x = some ()) : x = 0#16 := by
  by_contra hx
  simp [operandNone, hx] at h

/-- The only word of CAP_ENTER is its encoding. -/
theorem eq_encodeRequest_of_capEnter {w : RequestWord} (h : decodeRequest w = .ok .capEnter) :
    w = encodeRequest .capEnter := by
  simp only [decodeRequest] at h
  repeat' split at h
  all_goals cases h
  next hop _ hx =>
    have op : opField w = opCapEnter := BitVec.eq_of_toNat_eq hop
    rw [← requestWord_fields w, op, eq_zero_of_operandNone hx]
    rfl

/-- A request of the outside runs in the state that the statements call `asked`. -/
theorem noteRequest_eq_asked {w : RequestWord} {i : Instr} (h : decodeRequest w = .ok i) (s : State) :
    noteRequest w s = asked i s := by
  have word : w = encodeRequest .capEnter ↔ i = .capEnter := by
    constructor
    · rintro rfl
      exact (Except.ok.inj h).symm
    · rintro rfl
      exact eq_encodeRequest_of_capEnter h
  simp only [noteRequest, asked, word]
  split <;> rfl

theorem asked_of_ne_capEnter {i : Instr} (h : i ≠ .capEnter) (s : State) : asked i s = s := by simp [asked, h]

theorem decodeSymbol_ne_capEnter (n : Nibble) : decodeSymbol n ≠ .capEnter := by
  unfold decodeSymbol
  repeat' split
  all_goals exact nofun

/-- A command byte is decoded to a bridge command, and takes with it the further bytes of its row. -/
theorem decodeCommand_cons {cmd : Byte} {bytes rest : List Byte} {i : Instr}
    (h : decodeCommand (cmd :: bytes) = .ok (i, rest)) : onBlock i = false ∧ rest = bytes.drop (furtherBytes cmd) := by
  rw [decodeCommand.eq_def] at h
  dsimp only at h
  by_cases chunk : cmd.extractLsb' 6 2 = 0b11#2
  · rw [if_pos chunk] at h
    rw [furtherBytes, if_pos chunk]
    split at h <;> cases h
    exact ⟨rfl, rfl⟩
  by_cases read : cmd.extractLsb' 6 2 = 0b10#2
  · have probe : cmd ≠ cmdEchoProbe := by rintro rfl; cases read
    have start : cmd ≠ cmdI2cStart := by rintro rfl; cases read
    rw [if_neg chunk, if_pos read] at h
    rw [furtherBytes, if_neg chunk, if_neg probe, if_neg start]
    cases h
    exact ⟨rfl, rfl⟩
  rw [if_neg chunk, if_neg read] at h
  obtain ⟨rfl, h⟩ | ⟨-, h⟩ := ite_eq_iff.mp h
  · cases h
    exact ⟨rfl, rfl⟩
  obtain ⟨rfl, h⟩ | ⟨-, h⟩ := ite_eq_iff.mp h
  · cases h
    exact ⟨rfl, rfl⟩
  obtain ⟨rfl, h⟩ | ⟨-, h⟩ := ite_eq_iff.mp h
  · cases h
    exact ⟨rfl, rfl⟩
  obtain ⟨rfl, h⟩ | ⟨-, h⟩ := ite_eq_iff.mp h
  · cases h
    exact ⟨rfl, rfl⟩
  obtain ⟨rfl, h⟩ | ⟨-, h⟩ := ite_eq_iff.mp h
  · cases bytes <;> cases h
    exact ⟨rfl, rfl⟩
  obtain ⟨rfl, h⟩ | ⟨-, h⟩ := ite_eq_iff.mp h
  · cases h
    exact ⟨rfl, rfl⟩
  obtain ⟨rfl, h⟩ | ⟨-, h⟩ := ite_eq_iff.mp h
  · cases h
    exact ⟨rfl, rfl⟩
  obtain ⟨rfl, h⟩ | ⟨-, h⟩ := ite_eq_iff.mp h
  · cases bytes <;> cases h
    exact ⟨rfl, rfl⟩
  obtain ⟨rfl, h⟩ | ⟨-, h⟩ := ite_eq_iff.mp h
  · cases h
    exact ⟨rfl, rfl⟩
  cases h

theorem decodeTableWord_eq_some {nbits w : Nat} {i : Instr} (h : decodeTableWord nbits w = some i) :
    ∃ e rest, tableEncoding nbits w = some e ∧ decode e = .ok (i, rest) := by
  unfold decodeTableWord at h
  split at h
  · cases h
  · next e he =>
    split at h
    · next r rest hd =>
      cases h
      exact ⟨e, rest, he, hd⟩
    · cases h

/-- The bytes that the table's word of a command stands for (notes/assumptions/17.md). -/
theorem tableEncoding_command {nbits w : Nat} {bytes : List Byte} (h : tableEncoding nbits w = some (.command bytes)) :
    ∃ cmd, bytes = cmd :: List.replicate (furtherBytes cmd) 0#8 := by
  unfold tableEncoding at h
  repeat' split at h
  all_goals cases h
  exact ⟨_, rfl⟩

/-- The input of a table's word is run at once, with no byte left over. -/
theorem fetchInput_of_tableWord {nbits w : Nat} {e : Encoding} {i : Instr} {rest : List Byte}
    (he : tableEncoding nbits w = some e) (hd : decode e = .ok (i, rest)) (s : State) :
    fetchInput (.code e) s = .run i (asked i s) := by
  cases e with
  | request w =>
    have hw : decodeRequest w = .ok i := by
      cases hr : decodeRequest w with
      | error _ => simp [decode, hr, Except.map] at hd
      | ok j => simp_all [decode, Except.map]
    simp only [fetchInput, fetchRequest, hw, noteRequest_eq_asked hw]
  | symbol n =>
    cases hd
    rw [asked_of_ne_capEnter (decodeSymbol_ne_capEnter n), fetchInput]
  | command bytes =>
    have hc : decodeCommand bytes = .ok (i, rest) := hd
    obtain ⟨cmd, rfl⟩ := tableEncoding_command he
    obtain ⟨hb, hr⟩ := decodeCommand_cons hc
    obtain rfl : rest = [] := by simpa using hr
    have hi : i ≠ .capEnter := by
      rintro rfl
      cases hb
    simp only [fetchInput, fetchCommand, hc, pushBack, asked_of_ne_capEnter hi]

/-- Settles O5: the placed input is the next one of a quiet machine, and it is run at once. -/
theorem placedWordRunsNext : Obligations.PlacedWordRunsNext := by
  intro s nbits w i h
  obtain ⟨e, rest, he, hd⟩ := decodeTableWord_eq_some h
  have placed : s.withFetchWord nbits w =
      { s with
        inputs := .code e :: s.inputs, issued := [], host := { s.host with awaiting := none, task := .idle } } := by
    rw [State.withFetchWord, he]
  rw [placed, step, fetch_of_input ⟨rfl, rfl, rfl⟩ rfl, fetchInput_of_tableWord he hd]

end Sys2Proof.Claims
end

section
/-! The next item of a step (20_memory.md R48, 30_encoding.md R62): which bytes the decoder refuses, what a quiet machine does
with each kind of encoding, and the statement about all of them. -/

namespace Sys2Proof.Claims

open Sys2Proof.Machine

/-! ## Command bytes that do not decode -/

theorem topBits_toNat (cmd : Byte) : (cmd.extractLsb' 6 2).toNat = cmd.toNat / 64 := by
  rw [BitVec.extractLsb'_toNat, Nat.shiftRight_eq_div_pow]
  omega

/-- The write chunk commands are the bytes from 0xC0 on. -/
theorem topBits_eq_three_iff (cmd : Byte) : cmd.extractLsb' 6 2 = 0b11#2 ↔ 0xC0 ≤ cmd.toNat := by
  rw [← BitVec.toNat_inj, topBits_toNat]
  simp only [BitVec.toNat_ofNat]
  omega

/-- The read chunk commands are the bytes from 0x80 to 0xBF. -/
theorem topBits_eq_two_iff (cmd : Byte) : cmd.extractLsb' 6 2 = 0b10#2 ↔ 0x80 ≤ cmd.toNat ∧ cmd.toNat < 0xC0 := by
  rw [← BitVec.toNat_inj, topBits_toNat]
  simp only [BitVec.toNat_ofNat]
  omega

theorem chunkLength_of_writeChunk {cmd : Byte} (h : 0xC0 ≤ cmd.toNat) :
    chunkLength (chunkLengthField cmd) = cmd.toNat - 0xBF := by
  rw [chunkLength, chunkLengthField, BitVec.extractLsb'_toNat, Nat.shiftRight_zero]
  omega

theorem decodeCommand_of_not_isCommand {b : Byte} (h : isCommand b = false) (bytes : List Byte) :
    decodeCommand (b :: bytes) = .error (.notACommand b) := by
  simp only [isCommand, Bool.or_eq_false_iff, List.contains_eq_mem, decide_eq_false_iff_not, List.mem_cons,
    List.not_mem_nil, or_false, not_or, not_le] at h
  obtain ⟨unlisted, low⟩ := h
  have writeChunk : b.extractLsb' 6 2 ≠ 0b11#2 := by
    rw [Ne, topBits_eq_three_iff]
    omega
  have readChunk : b.extractLsb' 6 2 ≠ 0b10#2 := by
    rw [Ne, topBits_eq_two_iff]
    omega
  simp [decodeCommand, writeChunk, readChunk, unlisted, cmdMonitorOff, cmdStatus, cmdEnterCapture, cmdScan, cmdEchoProbe,
    cmdMonitorOn, cmdI2cStop, cmdI2cStart, cmdBusReset]

/-- Only a write chunk, an echo probe and an I2C start have further bytes to miss. -/
theorem decodeCommand_of_truncated {b : Byte} {bytes : List Byte} (h : bytes.length < furtherCount b) :
    decodeCommand (b :: bytes) = .error (.truncated b) := by
  unfold furtherCount at h
  split at h
  · next high =>
    rw [← chunkLength_of_writeChunk high] at h
    rw [decodeCommand.eq_def]
    dsimp only
    rw [if_pos ((topBits_eq_three_iff b).mpr high), if_pos h]
  · split at h
    · next two =>
      obtain rfl : bytes = [] := List.eq_nil_of_length_eq_zero (Nat.lt_one_iff.mp h)
      obtain rfl | rfl := two <;> rfl
    · exact absurd h (Nat.not_lt_zero _)

/-! ## An encoding as the next input of a quiet machine -/

section
variable {s : State} {rest : List Input} (hq : s.Quiet)
include hq

theorem step_of_request {w : RequestWord} {i : Instr} (h : s.inputs = .code (.request w) :: rest)
    (hd : decodeRequest w = .ok i) : step s = exec i (asked i { s with inputs := rest }) := by
  simp only [step, fetch_of_input hq h, fetchInput, fetchRequest, hd, noteRequest_eq_asked hd]

theorem step_of_symbol {n : Nibble} (h : s.inputs = .code (.symbol n) :: rest) :
    step s = exec (decodeSymbol n) { s with inputs := rest } := by
  simp only [step, fetch_of_input hq h, fetchInput]

theorem step_of_decodeCommand {bytes more : List Byte} {i : Instr} (h : s.inputs = .code (.command bytes) :: rest)
    (hd : decodeCommand bytes = .ok (i, more)) : step s = exec i (pushBack more { s with inputs := rest }) := by
  simp only [step, fetch_of_input hq h, fetchInput, fetchCommand, hd]

theorem step_of_unknownCommand {b : Byte} {bytes : List Byte} (h : s.inputs = .code (.command (b :: bytes)) :: rest)
    (hb : isCommand b = false) : step s = .refused (.unknownCommand b) := by
  simp only [step, fetch_of_input hq h, fetchInput, fetchCommand, decodeCommand_of_not_isCommand hb]

theorem step_of_truncatedCommand {b : Byte} {bytes : List Byte} (h : s.inputs = .code (.command (b :: bytes)) :: rest)
    (hb : bytes.length < furtherCount b) : step s = .refused (.truncatedCommand b) := by
  simp only [step, fetch_of_input hq h, fetchInput, fetchCommand, decodeCommand_of_truncated hb]

end

theorem pushBack_eq (more : List Byte) (s : State) :
    pushBack more s = { s with inputs := if more = [] then s.inputs else .code (.command more) :: s.inputs } := by
  cases more <;> rfl

/-- Settles O4: issued requests, the procedure's commands and each kind of input, by the lemma about a step that takes it. -/
theorem stepRunsTheDecodedInstruction : Obligations.StepRunsTheDecodedInstruction := by
  intro s ha
  refine ⟨fun w ws i h hd => step_of_issued ha h hd, fun hi => ⟨fun i s' h => step_of_command ha hi h, fun ht => ?_⟩⟩
  have hq : s.Quiet := ⟨ha, hi, ht⟩
  refine ⟨fun w rest i h hd => step_of_request hq h hd, fun n rest h => step_of_symbol hq h, ?_, ?_⟩
  · intro bytes i more rest h hd
    rw [step_of_decodeCommand hq h hd, pushBack_eq]
  · intro b bytes rest h
    exact ⟨fun hb => step_of_unknownCommand hq h hb, fun _ hb => step_of_truncatedCommand hq h hb⟩

end Sys2Proof.Claims
end

section
/-! The encodings (30_encoding.md R51 to R69): in each format the decoder undoes the encoder and the encoder the decoder; which
request words are refused; the words of the pseudo-requests; and the statements about them. -/

namespace Sys2Proof.Claims

open Sys2Proof.Machine

/-! ## Operand forms (30_encoding.md R52) -/

/-- An operand whose upper bits are zero is its lower bits. -/
theorem zeroExtend_extractLsb'_of_high_zero {k m : Nat} (hk : k + m = 16) {x : Word} (high : x.extractLsb' k m = 0#m) :
    (x.extractLsb' 0 k).zeroExtend 16 = x := by
  ext i hi
  by_cases h : i < k
  · simp [hi, h]
  · have bit : (x.extractLsb' k m).getLsbD (i - k) = false := by rw [high, BitVec.getLsbD_zero]
    simpa [h, hi, show i - k < m by omega, show k + (i - k) = i by omega, BitVec.getLsbD_eq_getElem hi] using bit

theorem eq_zeroExtend_of_operandB8 {x : Word} {b : Byte} (h : operandB8 x = some b) : x = b.zeroExtend 16 := by
  obtain ⟨high, rfl⟩ : x.extractLsb' 8 8 = 0#8 ∧ x.extractLsb' 0 8 = b := by simpa [operandB8] using h
  exact (zeroExtend_extractLsb'_of_high_zero (m := 8) rfl high).symm

theorem eq_zeroExtend_of_operandN4 {x : Word} {n : Nibble} (h : operandN4 x = some n) : x = n.zeroExtend 16 := by
  obtain ⟨high, rfl⟩ : x.extractLsb' 4 12 = 0#12 ∧ x.extractLsb' 0 4 = n := by simpa [operandN4] using h
  exact (zeroExtend_extractLsb'_of_high_zero (m := 12) rfl high).symm

/-! ## Request words (30_encoding.md R51 to R53) -/

theorem decodeRequest_of_encode {i : Instr} {w : RequestWord} (h : encode i = .request w) : decodeRequest w = .ok i := by
  cases i with
  | crcSeed _ | crcCheck _ | reservedOp0 _ | reservedOpB _ | reservedOpC _ | reservedOpD _ | reservedOpE _ | reservedOpF _ =>
    cases h
    simp [decodeRequest, opCrcSeed, opCrcCheck]
  | crcUpdateByte _ | capByte _ =>
    cases h
    simp [decodeRequest, opCrcUpdateByte, opCapByte]
  | crcUpdateNibble _ | capSymbol _ =>
    cases h
    simp [decodeRequest, opCrcUpdateNibble, opCapSymbol]
  | crcRead | capEnter | disconnect | errRead =>
    cases h
    rfl
  | _ => cases h

theorem request_eq_of_fields {a b : Nibble} {x y : Word} (op : a.toNat = b.toNat) (operand : x = y) :
    Encoding.request (requestWord a x) = .request (requestWord b y) := by
  rw [BitVec.eq_of_toNat_eq op, operand]

theorem encode_of_decodeRequest {i : Instr} {w : RequestWord} (h : decodeRequest w = .ok i) : encode i = .request w := by
  rw [← requestWord_fields w]
  simp only [decodeRequest] at h
  split at h
  case h_3 hop | h_9 hop =>
    split at h <;> cases h
    next hx => exact request_eq_of_fields hop.symm (eq_zeroExtend_of_operandB8 hx).symm
  case h_4 hop | h_8 hop =>
    split at h <;> cases h
    next hx => exact request_eq_of_fields hop.symm (eq_zeroExtend_of_operandN4 hx).symm
  case h_5 hop | h_7 hop | h_10 hop | h_11 hop =>
    split at h <;> cases h
    next hx => exact request_eq_of_fields hop.symm (eq_zero_of_operandNone hx).symm
  case h_16 =>
    have hop : (opField w).toNat = 15 := by
      simp only [imp_false] at *
      omega
    cases h
    exact request_eq_of_fields hop.symm rfl
  all_goals
    next hop =>
    cases h
    exact request_eq_of_fields hop.symm rfl

/-! ## Symbols (30_encoding.md R55) -/

theorem encode_decodeSymbol (n : Nibble) : encode (decodeSymbol n) = .symbol n := by
  revert n
  decide

theorem decodeSymbol_of_encode {i : Instr} {n : Nibble} (h : encode i = .symbol n) : decodeSymbol n = i := by
  cases i with
  | symIdle | symStart | symStop | symReserved3 =>
    cases h
    rfl
  | symReserved4To7 low =>
    cases h
    revert low
    decide
  | symData d =>
    cases h
    revert d
    decide
  | _ => cases h

/-! ## Bridge commands (30_encoding.md R62 to R64) -/

/-- A read chunk's command byte is `0b10` and the length field. -/
theorem readChunkByte_eq_append : ∀ n : BitVec 6, readChunkByte n = 0b10#2 ++ n := by decide

/-- A write chunk's command byte is `0b11` and the length field. -/
theorem writeChunkByte_eq_append : ∀ n : BitVec 6, writeChunkByte n = 0b11#2 ++ n := by decide

theorem topBits_readChunkByte (n : BitVec 6) : (readChunkByte n).extractLsb' 6 2 = 0b10#2 := Laws.TableRow.hostReadChunk n

theorem topBits_writeChunkByte (n : BitVec 6) : (writeChunkByte n).extractLsb' 6 2 = 0b11#2 :=
  Laws.TableRow.hostWriteChunk n []

theorem chunkLengthField_readChunkByte : ∀ n : BitVec 6, chunkLengthField (readChunkByte n) = n := by decide

theorem chunkLengthField_writeChunkByte : ∀ n : BitVec 6, chunkLengthField (writeChunkByte n) = n := by decide

/-- A command byte is its class and its length field. -/
theorem topBits_append_chunkLengthField (cmd : Byte) : cmd.extractLsb' 6 2 ++ chunkLengthField cmd = cmd :=
  BitVec.extractLsb'_append_extractLsb' (w := 2) (len := 6)

theorem payloadAddress_startAddressByte (a : BitVec 7) (dir : Direction) : payloadAddress (startAddressByte a dir) = a :=
  BitVec.extractLsb'_append_eq_left

theorem payloadDirection_startAddressByte (a : BitVec 7) (dir : Direction) :
    payloadDirection (startAddressByte a dir) = dir := by
  unfold payloadDirection startAddressByte
  rw [BitVec.getLsbD_append]
  cases dir <;> rfl

theorem startAddressByte_payload (a : Byte) : startAddressByte (payloadAddress a) (payloadDirection a) = a := by
  have bit : directionBit (payloadDirection a) = a.extractLsb' 0 1 := by
    ext i hi
    obtain rfl : i = 0 := by omega
    cases h : a[0] <;> simp [payloadDirection, directionOfBit, directionBit, h]
  rw [startAddressByte, bit]
  exact BitVec.extractLsb'_append_extractLsb' (w := 7) (len := 1)

/-- Only a write chunk can be written wrongly, so only its case uses the well-formedness. -/
theorem decodeCommand_of_encode {i : Instr} {head : List Byte} (wf : i.WellFormed = true) (h : encode i = .command head)
    (rest : List Byte) : decodeCommand (head ++ rest) = .ok (i, rest) := by
  cases i with
  | hostReadChunk n =>
    cases h
    simp [decodeCommand, topBits_readChunkByte, chunkLengthField_readChunkByte]
  | hostWriteChunk n data =>
    cases h
    have hlen : chunkLength n = data.length := (beq_iff_eq.mp wf).symm
    simp [decodeCommand, topBits_writeChunkByte, chunkLengthField_writeChunkByte, hlen]
  | hostI2cStart a dir =>
    cases h
    have start : decodeCommand (cmdI2cStart :: startAddressByte a dir :: rest) = .ok (.hostI2cStart _ _, rest) := rfl
    rwa [payloadAddress_startAddressByte, payloadDirection_startAddressByte] at start
  | hostMonitorOff | hostStatus | hostEnterCapture | hostScan | hostEchoProbe _ | hostMonitorOn | hostI2cStop
  | hostBusReset =>
    cases h
    rfl
  | _ => cases h

/-- `bytes` are those of the well-formed command `i`, then `rest`. -/
def StartsWith (bytes : List Byte) (i : Instr) (rest : List Byte) : Prop :=
  i.WellFormed = true ∧ ∃ head, encode i = .command head ∧ bytes = head ++ rest

/-- One line of the decoder's table of commands without further bytes: it is this command, or a later line answers. -/
theorem startsWith_of_oneByte {cmd c : Byte} {tail rest : List Byte} {i j : Instr}
    {later : Except DecodeError (Instr × List Byte)} (he : encode j = .command [c]) (wf : j.WellFormed = true)
    (h : (if cmd = c then .ok (j, tail) else later) = .ok (i, rest)) :
    StartsWith (cmd :: tail) i rest ∨ later = .ok (i, rest) := by
  obtain ⟨rfl, hj⟩ | ⟨-, hlater⟩ := ite_eq_iff.mp h
  · cases hj
    exact .inl ⟨wf, _, he, rfl⟩
  · exact .inr hlater

/-- What decodes as a command was that command's bytes: the chunk commands by their top bits, then the table's other lines in
the decoder's order, of which the echo probe and the I2C start take one further byte. -/
theorem startsWith_of_decodeCommand {bytes rest : List Byte} {i : Instr} (h : decodeCommand bytes = .ok (i, rest)) :
    StartsWith bytes i rest := by
  cases bytes with
  | nil => cases h
  | cons cmd tail =>
    rw [decodeCommand.eq_def] at h
    dsimp only at h
    obtain ⟨write, h⟩ | ⟨-, h⟩ := ite_eq_iff.mp h
    · obtain ⟨-, h⟩ | ⟨enough, h⟩ := ite_eq_iff.mp h
      · cases h
      · cases h
        refine ⟨by simpa [Instr.WellFormed, chunkLength] using enough, _, rfl, ?_⟩
        rw [writeChunkByte_eq_append, ← write, topBits_append_chunkLengthField, List.cons_append, List.take_append_drop]
    obtain ⟨read, h⟩ | ⟨-, h⟩ := ite_eq_iff.mp h
    · cases h
      refine ⟨rfl, _, rfl, ?_⟩
      rw [readChunkByte_eq_append, ← read, topBits_append_chunkLengthField]
      rfl
    refine (startsWith_of_oneByte rfl rfl h).elim id fun h => ?_
    refine (startsWith_of_oneByte rfl rfl h).elim id fun h => ?_
    refine (startsWith_of_oneByte rfl rfl h).elim id fun h => ?_
    refine (startsWith_of_oneByte rfl rfl h).elim id fun h => ?_
    obtain ⟨rfl, h⟩ | ⟨-, h⟩ := ite_eq_iff.mp h
    · cases tail <;> cases h
      exact ⟨rfl, _, rfl, rfl⟩
    refine (startsWith_of_oneByte rfl rfl h).elim id fun h => ?_
    refine (startsWith_of_oneByte rfl rfl h).elim id fun h => ?_
    obtain ⟨rfl, h⟩ | ⟨-, h⟩ := ite_eq_iff.mp h
    · cases tail <;> cases h
      refine ⟨rfl, _, rfl, ?_⟩
      rw [startAddressByte_payload]
      rfl
    refine (startsWith_of_oneByte rfl rfl h).elim id fun h => ?_
    cases h

/-! ## The statements -/

/-- Settles O1: each format's encoder is undone by its decoder. -/
theorem decodeUndoesEncode : Obligations.DecodeUndoesEncode := by
  intro i wf
  cases h : encode i with
  | request w =>
    show (decodeRequest w).map (·, []) = .ok (i, [])
    rw [decodeRequest_of_encode h]
    rfl
  | symbol n =>
    obtain rfl := decodeSymbol_of_encode h
    rfl
  | command bytes => exact fun rest => decodeCommand_of_encode wf h rest

/-- Settles O2: each format's decoder is undone by the encoder. -/
theorem encodeUndoesDecode : Obligations.EncodeUndoesDecode :=
  ⟨fun _ _ => encode_of_decodeRequest, encode_decodeSymbol, fun _ _ _ => startsWith_of_decodeCommand⟩

/-- Settles O59: by the command bytes' fields, and the decoder's undoing of the encoder. -/
theorem chunkCommandsKeepTheirRanges : Obligations.ChunkCommandsKeepTheirRanges := by
  intro n data rest hlen
  rw [← readChunkByte_eq_append, ← writeChunkByte_eq_append]
  refine ⟨rfl, rfl, ?_, ?_⟩
  · exact decodeCommand_of_encode (i := .hostReadChunk n) rfl rfl rest
  · exact decodeCommand_of_encode (i := .hostWriteChunk n data) (by simpa [Instr.WellFormed] using hlen) rfl rest

/-- Settles O3: the decoder evaluated on the six. -/
theorem writtenOutWordsDecode : Obligations.WrittenOutWordsDecode := by
  unfold Obligations.WrittenOutWordsDecode
  decide

/-! ## Refused request words (30_encoding.md R53) -/

theorem refuseRequest_eq_errored (s : State) : refuseRequest s = .next (errored s 1#3 0x01#8) := rfl

/-- Settles O7: the six rows refuse their request. -/
theorem reservedOperationsAnswerBadRequest : Obligations.ReservedOperationsAnswerBadRequest :=
  fun s _ => ⟨refuseRequest_eq_errored s, refuseRequest_eq_errored s, refuseRequest_eq_errored s,
    refuseRequest_eq_errored s, refuseRequest_eq_errored s, refuseRequest_eq_errored s⟩

theorem extractLsb'_zeroExtend_high {k m : Nat} (v : BitVec k) : (v.zeroExtend 16).extractLsb' k m = 0#m := by
  ext i hi
  simp

/-- The fields of an encoding are legal: its operand has no must-be-zero bit set. So an illegal word that is an encoding has a
reserved operation code. -/
theorem exec_of_illegalWord {i : Instr} {w : RequestWord} (hw : illegalWord w = true) (h : encode i = .request w)
    (s : State) : exec i s = refuseRequest s := by
  have op (o : Nibble) (x : Word) : (requestWord o x).extractLsb' 16 4 = o := opField_requestWord o x
  have operand (o : Nibble) (x : Word) : (requestWord o x).extractLsb' 0 16 = x := operandField_requestWord o x
  cases i with
  | reservedOp0 _ | reservedOpB _ | reservedOpC _ | reservedOpD _ | reservedOpE _ | reservedOpF _ => rfl
  | crcRead | capEnter | disconnect | errRead =>
    cases h
    cases hw
  | crcSeed _ | crcCheck _ | crcUpdateByte _ | capByte _ | crcUpdateNibble _ | capSymbol _ =>
    cases h
    simp only [illegalWord, op, operand, extractLsb'_zeroExtend_high] at hw
    cases hw
  | _ => cases h

/-- An illegal word is refused, by the decoder or by the instruction it decodes to. -/
theorem step_of_illegalWord {s : State} {w : RequestWord} {rest : List Input} (hw : illegalWord w = true) (hq : s.Quiet)
    (h : s.inputs = .code (.request w) :: rest) : step s = refuseRequest { s with inputs := rest } := by
  have other : w ≠ encodeRequest .capEnter := by
    rintro rfl
    cases hw
  simp only [step, fetch_of_input hq h, fetchInput, noteRequest_of_other other, fetchRequest]
  cases hd : decodeRequest w with
  | error _ => rfl
  | ok i => exact exec_of_illegalWord hw (encode_of_decodeRequest hd) _

/-- Settles O6: a refused word's next state is the state of the error. -/
theorem illegalRequestIsRefused : Obligations.IllegalRequestIsRefused :=
  fun _ _ _ hw hq h => (step_of_illegalWord hw hq h).trans (refuseRequest_eq_errored _)

/-! ## Request words written out (30_encoding.md R51, R52) -/

/-- A request with a short operand is its operation code, the must-be-zero bits and the operand. -/
theorem requestWord_zeroExtend {k m : Nat} (hk : k + m = 16) (op : Nibble) (v : BitVec k) :
    requestWord op (v.zeroExtend 16) = ((op ++ 0#m) ++ v).cast (by omega) := by
  ext i hi
  rw [← BitVec.getLsbD_eq_getElem, ← BitVec.getLsbD_eq_getElem, BitVec.getLsbD_cast, BitVec.getLsbD_append,
    BitVec.getLsbD_append, requestWord]
  refine (BitVec.getLsbD_append (x := op) (y := v.zeroExtend 16)).trans ?_
  by_cases low : i < k
  · simp [low, show i < 16 by omega]
  by_cases zero : i < 16
  · simp [low, zero, show i - k < m by omega, BitVec.getLsbD_of_ge v i (by omega)]
  · simp [low, zero, show ¬ i - k < m by omega, show i - k - m = i - 16 by omega]

theorem encode_crcUpdateByte (b : Byte) : encode (.crcUpdateByte b) = .request (0x200#12 ++ b) :=
  congrArg _ (requestWord_zeroExtend (m := 8) rfl opCrcUpdateByte b)

theorem encode_capByte (b : Byte) : encode (.capByte b) = .request (0x800#12 ++ b) :=
  congrArg _ (requestWord_zeroExtend (m := 8) rfl opCapByte b)

theorem encode_capSymbol (n : Nibble) : encode (.capSymbol n) = .request (0x7000#16 ++ n) :=
  congrArg _ (requestWord_zeroExtend (m := 12) rfl opCapSymbol n)

theorem encodeRequest_of_encode {i : Instr} {w : RequestWord} (h : encode i = .request w) : encodeRequest i = w := by
  rw [encodeRequest, h]

/-! ## Pseudo-requests (30_encoding.md R69) -/

theorem byteOperands_toNat (bytes : List Byte) : byteOperands (bytes.map BitVec.toNat) = some bytes := by
  have bounded : (bytes.map BitVec.toNat).all (· < 256) = true := by
    simpa using fun b _ => b.isLt
  rw [byteOperands, if_pos bounded, List.map_map]
  simp [Function.comp_def]

/-- A mnemonic of no request is one of a pseudo-request, and gives the words of its expansion. -/
theorem assembleRequest_of_pseudo {mnemonic : List Char} {operands : List Nat} {p : Pseudo}
    (h : withOperand.lookup mnemonic = none) (h' : withoutOperand.lookup mnemonic = none)
    (hp : pseudoOf mnemonic operands = some p) :
    assembleRequest mnemonic operands = some (p.expand.map encodeRequest) := by
  simp only [assembleRequest, h, h', hp, Option.map_some]

theorem pseudoOf_connect (v : Word) : pseudoOf "CONNECT".toList [v.toNat] = some (.connect v) := by
  unfold pseudoOf
  rw [if_pos rfl]
  simp [v.isLt]

theorem pseudoOf_crcUpdate (bytes : List Byte) :
    pseudoOf "CRC_UPDATE".toList (bytes.map BitVec.toNat) = some (.crcUpdate bytes) := by
  unfold pseudoOf
  rw [if_neg (by decide), if_pos rfl, byteOperands_toNat, Option.map_some]

theorem pseudoOf_capStream (bytes : List Byte) :
    pseudoOf "CAP_STREAM".toList (bytes.map BitVec.toNat) = some (.capStream bytes) := by
  unfold pseudoOf
  rw [if_neg (by decide), if_neg (by decide), if_pos rfl, byteOperands_toNat, Option.map_some]

theorem pseudoOf_capCancel : pseudoOf "CAP_CANCEL".toList [] = some .capCancel := by decide

/-- Settles O60: each mnemonic is read as its pseudo-request, and the words are those of the expansion. -/
theorem pseudoRequestsExpand : Obligations.PseudoRequestsExpand := by
  intro v bytes
  refine ⟨assembleRequest_of_pseudo (by decide) (by decide) (pseudoOf_connect v), ?_, ?_,
    assembleRequest_of_pseudo (by decide) (by decide) pseudoOf_capCancel⟩
  · rw [assembleRequest_of_pseudo (by decide) (by decide) (pseudoOf_crcUpdate bytes), Pseudo.expand, List.map_map]
    exact congrArg some (List.map_congr_left fun b _ => encodeRequest_of_encode (encode_crcUpdateByte b))
  · rw [assembleRequest_of_pseudo (by decide) (by decide) (pseudoOf_capStream bytes), Pseudo.expand, List.map_map]
    exact congrArg some (List.map_congr_left fun b _ => encodeRequest_of_encode (encode_capByte b))

end Sys2Proof.Claims
end

section
/-! A group of capture symbols (30_encoding.md R58, 42_capture_decoder.md R131 to R139): what the decoder makes of symbols one
after another, that a quiet machine runs their requests to the same effect, and the statement about one group. -/

namespace Sys2Proof.Claims

open Sys2Proof.Machine

/-! ## Symbols one after another -/

/-- From the registers `b` the decoder takes these symbols without an error, emits these events and ends in `c`. -/
inductive Consumes (p : ReservedSymbolPolicy) : Block → List Nibble → List BusEvent → Block → Prop
  | nil (b : Block) : Consumes p b [] [] b
  | cons {n : Nibble} {symbols : List Nibble} {ev : Option BusEvent} {events : List BusEvent} {b c d : Block}
      (first : symbolStep p n b = .ok (c, ev)) (others : Consumes p c symbols events d) :
      Consumes p b (n :: symbols) (ev.toList ++ events) d

theorem Consumes.append {p : ReservedSymbolPolicy} {b c d : Block} {xs ys : List Nibble} {es fs : List BusEvent}
    (h : Consumes p b xs es c) (k : Consumes p c ys fs d) : Consumes p b (xs ++ ys) (es ++ fs) d := by
  induction h with
  | nil => exact k
  | cons first _ ih =>
    rw [List.append_assoc]
    exact .cons first (ih k)

theorem eventsOf_cons (r : Response) (rs : List Response) : eventsOf (r :: rs) = r.events ++ eventsOf rs :=
  List.flatMap_cons

/-- In capture mode a CAP_SYMBOL request gives the event of its symbol's step. -/
theorem step_of_symbolRequest {s : State} (hq : s.Quiet) (hc : s.block.capActive = true) {n : Nibble} {rest : List Input}
    (h : s.inputs = .code (.request (0x7000#16 ++ n)) :: rest) {c : Block} {ev : Option BusEvent}
    (hn : symbolStep s.params.reservedSymbol n s.block = .ok (c, ev)) :
    step s = .next (answered { s with inputs := rest } c 0x0000#16 ev.toList) := by
  rw [step_of_request hq h (decodeRequest_of_encode (encode_capSymbol n)),
    asked_of_ne_capEnter (i := .capSymbol n) (by simp), exec_capSymbol, execCapSymbol,
    whenCapturing_of_capturing (s := { s with inputs := rest }) _ hc, hn]
  rfl

theorem run_of_step {s t : State} (h : step s = .next t) (k : Nat) :
    Host.Core.run core (k + 1) s = Host.Core.run core k t := by
  simp only [Host.Core.run, show core.step s = .next t from h]

/-- Symbols that the decoder takes without an error, as CAP_SYMBOL requests of a quiet machine in capture mode. -/
theorem Consumes.run {symbols : List Nibble} {events : List BusEvent} {b c : Block} {rest : List Input} {s : State}
    (h : Consumes s.params.reservedSymbol b symbols events c) (hq : s.Quiet) (hc : b.capActive = true)
    (old : List Response) :
    ∃ rs, Host.Core.run core symbols.length
        { s with block := b, inputs := symbolInputs symbols ++ rest, responses := old }
        = .next { s with block := c, inputs := rest, responses := old ++ rs } ∧
      eventsOf rs = events := by
  induction h generalizing old with
  | nil b => exact ⟨[], by rw [List.append_nil]; rfl, rfl⟩
  | @cons n symbols ev events b c d first _ ih =>
    obtain ⟨rs, hrun, hev⟩ := ih ((symbolStep_move first).capActive.trans hc) (old ++ [⟨0#3, 0x0000#16, ev.toList⟩])
    refine ⟨⟨0#3, 0x0000#16, ev.toList⟩ :: rs, ?_, by rw [eventsOf_cons, hev]⟩
    have one := step_of_symbolRequest
      (s := { s with block := b, inputs := symbolInputs (n :: symbols) ++ rest, responses := old }) hq hc rfl first
    rw [List.append_cons, ← hrun]
    exact run_of_step one _

/-! ## A group (30_encoding.md R58 to R60) -/

theorem startEvent_eq_groupEvent (g : BitVec 9) : startEvent g = groupEvent true g := by
  have address : payloadAddress (groupPayload g) = g.extractLsb' 2 7 := by
    unfold payloadAddress groupPayload
    ext i hi
    simp [show 1 + i < 8 by omega, show 1 + (1 + i) = 2 + i by omega]
  have direction : (groupPayload g).getLsbD 0 = g.getLsbD 1 := by
    simp [groupPayload, -BitVec.getLsbD_eq_getElem]
  rw [startEvent, address, payloadDirection, direction]
  rfl

theorem byteEvent_eq_groupEvent (g : BitVec 9) : byteEvent g = groupEvent false g := rfl

theorem filter_groupEvent (addressPhase : Bool) (g : BitVec 9) :
    [groupEvent addressPhase g].filter (fun e => !isStop e) = [groupEvent addressPhase g] := by
  cases addressPhase <;> rfl

/-- The block after a completed group: the decoder is clean. -/
def cleanDecoder (b : Block) : Block := { b with pendingStart := false, accValue := 0#9, accCount := 0#4 }

theorem completeGroup_eq (b : Block) :
    completeGroup b = (cleanDecoder b, some (groupEvent b.pendingStart b.accValue)) := by
  cases h : b.pendingStart with
  | true => simp [completeGroup, h, startEvent_eq_groupEvent, cleanDecoder]
  | false => simp [completeGroup, h, byteEvent_eq_groupEvent, cleanDecoder]

/-- Three symbols' bits fill the accumulator, the first on top, whatever it held. -/
theorem accumulated_eq_append (v : BitVec 9) (d1 d2 d3 : BitVec 3) :
    ((((v <<< 3) ||| d1.zeroExtend 9) <<< 3 ||| d2.zeroExtend 9) <<< 3) ||| d3.zeroExtend 9 = d1 ++ d2 ++ d3 := by
  have group := BitVec.setWidth_append_append_eq_shiftLeft_setWidth_or (b := d1) (b' := d2) (b'' := d3) (w''' := 9)
  have flushed : v <<< 9 = 0#9 := BitVec.shiftLeft_eq_zero (by decide)
  rw [BitVec.setWidth_eq] at group
  rw [group]
  simp only [BitVec.shiftLeft_or_distrib, ← BitVec.shiftLeft_add]
  simp [flushed]

/-- `pending_start` after these control symbols (42_capture_decoder.md R132 to R134). -/
def markStarts (symbols : List Nibble) (b : Block) : Block :=
  { b with pendingStart := b.pendingStart || symbols.any (fun n => n != 0x0#4) }

/-- A control symbol other than 0 marks a start, and emits no event but a Stop. -/
theorem symbolStep_control (p : ReservedSymbolPolicy) {n : Nibble} (hn : n.toNat ≤ 2) (b : Block) :
    ∃ ev, symbolStep p n b = .ok (markStarts [n] b, ev) ∧ ev.toList.filter (fun e => !isStop e) = [] := by
  obtain ⟨h, -⟩ | ⟨rfl, e⟩ | ⟨rfl, e⟩ | ⟨rfl, e⟩ | ⟨h, -, -⟩ := symbolStep_cases p n b
  · have high : n.getLsbD 3 = false := Nat.testBit_lt_two_pow (by omega)
    cases high.symm.trans h
  · exact ⟨none, by simpa [markStarts] using e, rfl⟩
  · exact ⟨none, by simpa [markStarts] using e, rfl⟩
  · exact ⟨some .stop, by simpa [markStarts] using e, rfl⟩
  · omega

/-- Control symbols leave the accumulator alone. -/
theorem consumes_controls (p : ReservedSymbolPolicy) {symbols : List Nibble} (hs : ∀ n ∈ symbols, n.toNat ≤ 2)
    (b : Block) :
    ∃ events, Consumes p b symbols events (markStarts symbols b) ∧ events.filter (fun e => !isStop e) = [] := by
  induction symbols generalizing b with
  | nil => exact ⟨[], by simpa [markStarts] using Consumes.nil (p := p) b, rfl⟩
  | cons n symbols ih =>
    obtain ⟨hn, hs⟩ := List.forall_mem_cons.mp hs
    obtain ⟨ev, first, quiet⟩ := symbolStep_control p hn b
    obtain ⟨events, others, quiets⟩ := ih hs (markStarts [n] b)
    have marks : markStarts symbols (markStarts [n] b) = markStarts (n :: symbols) b := by
      simp [markStarts, Bool.or_assoc]
    exact ⟨ev.toList ++ events, marks ▸ .cons first others, by rw [List.filter_append, quiet, quiets]; rfl⟩

theorem symbolStep_data (p : ReservedSymbolPolicy) (d : BitVec 3) (b : Block) :
    symbolStep p (0b1#1 ++ d) b = stepData d b := by
  have data : symbolData (0b1#1 ++ d) = d := BitVec.extractLsb'_append_eq_right
  have cls : (0b1#1 ++ d : Nibble).getLsbD 3 = true := by rw [BitVec.getLsbD_append]; rfl
  rw [symbolStep, if_pos cls, data]

/-- The first or second data symbol of a group, with the control symbols after it, completes nothing. -/
theorem consumes_data_controls (p : ReservedSymbolPolicy) (d : BitVec 3) {symbols : List Nibble}
    (hs : ∀ n ∈ symbols, n.toNat ≤ 2) {b : Block} (hb : (appendBits d b).accCount ≠ 9#4) :
    ∃ events, Consumes p b ((0b1#1 ++ d) :: symbols) events (markStarts symbols (appendBits d b)) ∧
      events.filter (fun e => !isStop e) = [] := by
  obtain ⟨events, others, quiet⟩ := consumes_controls p hs (appendBits d b)
  have first : symbolStep p (0b1#1 ++ d) b = .ok (appendBits d b, none) := by rw [symbolStep_data, stepData, if_neg hb]
  exact ⟨_, .cons first others, quiet⟩

/-- The third data symbol completes the group and leaves the decoder clean. -/
theorem consumes_completing (p : ReservedSymbolPolicy) (d : BitVec 3) {b : Block} (hb : (appendBits d b).accCount = 9#4) :
    Consumes p b [0b1#1 ++ d] [groupEvent b.pendingStart (appendBits d b).accValue] (cleanDecoder b) := by
  have first : symbolStep p (0b1#1 ++ d) b
      = .ok (cleanDecoder b, some (groupEvent b.pendingStart (appendBits d b).accValue)) := by
    rw [symbolStep_data, stepData, if_pos hb, completeGroup_eq]
    rfl
  exact .cons first (.nil _)

/-- Three data symbols with control symbols between them, from an empty accumulator. -/
theorem consumes_group (p : ReservedSymbolPolicy) (d1 d2 d3 : BitVec 3) {g1 g2 : List Nibble}
    (hg : ∀ n ∈ g1 ++ g2, n.toNat ≤ 2) {b : Block} (hb : b.accCount = 0#4) :
    ∃ events, Consumes p b (((0b1#1 ++ d1) :: g1) ++ ((0b1#1 ++ d2) :: g2) ++ [0b1#1 ++ d3]) events (cleanDecoder b) ∧
      events.filter (fun e => !isStop e)
        = [groupEvent (b.pendingStart || (g1 ++ g2).any (fun n => n != 0x0#4)) (d1 ++ d2 ++ d3)] := by
  obtain ⟨hg1, hg2⟩ := List.forall_mem_append.mp hg
  obtain ⟨events1, first, quiet1⟩ := consumes_data_controls p d1 hg1 (b := b) (by simp [appendBits, hb])
  obtain ⟨events2, second, quiet2⟩ := consumes_data_controls p d2 hg2 (b := markStarts g1 (appendBits d1 b))
    (by simp [appendBits, markStarts, hb])
  have third := consumes_completing p d3 (b := markStarts g2 (appendBits d2 (markStarts g1 (appendBits d1 b))))
    (by simp [appendBits, markStarts, hb])
  refine ⟨_, (first.append second).append third, ?_⟩
  rw [List.filter_append, List.filter_append, quiet1, quiet2, List.any_append, ← Bool.or_assoc,
    ← accumulated_eq_append b.accValue d1 d2 d3]
  exact filter_groupEvent _ _

/-- Settles O28: the decoder consumes the group's symbols, and a quiet machine runs what the decoder consumes. -/
theorem groupIsItsThreeDataSymbols : Obligations.GroupIsItsThreeDataSymbols := by
  intro s d1 d2 d3 g1 g2 rest hq hc h0 hg hin
  obtain ⟨events, group, hev⟩ := consumes_group s.params.reservedSymbol d1 d2 d3 hg h0
  obtain ⟨rs, hrun, rfl⟩ := group.run (rest := rest) hq hc s.responses
  refine ⟨rs, ?_, hev⟩
  rw [← hin] at hrun
  have len : (((0b1#1 ++ d1 : Nibble) :: g1) ++ ((0b1#1 ++ d2) :: g2) ++ [0b1#1 ++ d3]).length
      = g1.length + g2.length + 3 := by
    simp only [List.length_append, List.length_cons, List.length_nil]
    omega
  rw [← len]
  exact hrun

end Sys2Proof.Claims
end

section
/-! The Checksum Engine (40_checksum.md R80 to R89): the bit-serial CRC with its linearity, its table forms and its splitting;
what each of its requests does, and what a run of CRC_UPDATE_BYTE requests does; and the statements about them. -/

namespace Sys2Proof.Claims

open Sys2Proof.Machine

/-! ## The bit-serial rule is linear (40_checksum.md R80, R89) -/

/-- Where the loop of 40_checksum.md R80 places a `k`-bit value: in the top `k` bits of the register. -/
def crcTop {k : Nat} (v : BitVec k) : Word := v.zeroExtend 16 <<< (16 - k)

theorem crcShift_eq_crcBits {k : Nat} (c : Word) (v : BitVec k) : crcShift c v = crcBits k (c ^^^ crcTop v) := rfl

theorem crcTop_xor {k : Nat} (u v : BitVec k) : crcTop (u ^^^ v) = crcTop u ^^^ crcTop v := by
  simp [crcTop, BitVec.shiftLeft_xor_distrib]

theorem crcTop_zero (k : Nat) : crcTop (0#k) = 0#16 := by simp [crcTop]

theorem crcShift_xor {k : Nat} (c1 c2 : Word) (v1 v2 : BitVec k) :
    crcShift (c1 ^^^ c2) (v1 ^^^ v2) = crcShift c1 v1 ^^^ crcShift c2 v2 := by
  simp only [crcShift_eq_crcBits, crcTop_xor, ← crcBits_xor]
  congr 1
  ac_rfl

theorem crcShift_zero (k : Nat) : crcShift 0#16 (0#k) = 0#16 := by
  rw [crcShift_eq_crcBits, crcTop_zero, BitVec.xor_self, crcBits_zero]

/-- Settles O15: each iteration of the loop is linear, and so is placing the value. -/
theorem crcShiftIsLinear : Obligations.CrcShiftIsLinear :=
  fun k _ c1 c2 v1 v2 => ⟨crcShift_xor c1 c2 v1 v2, crcShift_zero k⟩

/-! ## Table forms and splitting (40_checksum.md R81, R82)

Counted from the most significant bit, a placed value has its bits where it had them. The bits below the top `k` are only
shifted by `k` iterations, so the top `k` bits alone select what is added. -/

theorem getMsbD_crcTop {k : Nat} (hk : k ≤ 16) (v : BitVec k) (i : Nat) : (crcTop v).getMsbD i = v.getMsbD i := by
  simp [crcTop, show i + (16 - k) + k - 16 = i by omega]

theorem crcTop_append {j k : Nat} (h : j + k ≤ 16) (u : BitVec j) (v : BitVec k) :
    crcTop (u ++ v) = crcTop u ^^^ (crcTop v >>> j) := by
  refine BitVec.eq_of_getMsbD_eq fun i hi => ?_
  rw [BitVec.getMsbD_xor, BitVec.getMsbD_ushiftRight, getMsbD_crcTop h, getMsbD_crcTop (by omega),
    getMsbD_crcTop (by omega), BitVec.getMsbD_append]
  by_cases low : j ≤ i
  · simp [low, hi]
  · simp [low, Nat.lt_of_not_le low]

/-- A register is its lower bits and its placed top `k` bits. -/
theorem low_xor_crcTop {k : Nat} (hk : k ≤ 16) (c : Word) :
    (c <<< k >>> k) ^^^ crcTop (c.extractLsb' (16 - k) k) = c := by
  refine BitVec.eq_of_getMsbD_eq fun i hi => ?_
  rw [BitVec.getMsbD_xor, BitVec.getMsbD_ushiftRight, getMsbD_crcTop hk, BitVec.getMsbD_shiftLeft,
    BitVec.getMsbD_extractLsb']
  by_cases high : i < k
  · simp [high, hk, Nat.sub_sub_self hi.le]
  · simp [high, hi, Nat.sub_add_cancel (Nat.le_of_not_lt high)]

theorem shiftLeft_ushiftRight_shiftLeft (k : Nat) (c : Word) : c <<< k >>> k <<< k = c <<< k := by
  ext i hi
  by_cases low : i < k
  · simp [low]
  · simp [low, Nat.add_sub_cancel' (Nat.le_of_not_lt low), hi]

theorem crcTop_ushiftRight_shiftLeft {j k : Nat} (h : j + k ≤ 16) (v : BitVec k) :
    crcTop v >>> j <<< j = crcTop v := by
  rw [crcTop, show 16 - k = 16 - (j + k) + j by omega, BitVec.shiftLeft_add, shiftLeft_ushiftRight_shiftLeft]

theorem crcBits_ushiftRight {k : Nat} (hk : k ≤ 16) (c : Word) : crcBits k (c >>> k) = c >>> k <<< k :=
  crcBits_of_lt k hk _ (BitVec.toNat_ushiftRight_lt c k hk)

/-- The table form of a `k`-bit step, with `crcShift 0` as the table. -/
theorem crcShift_eq_table {k : Nat} (hk : k ≤ 16) (c : Word) (v : BitVec k) :
    crcShift c v = (c <<< k) ^^^ crcShift 0#16 (c.extractLsb' (16 - k) k ^^^ v) := by
  calc crcShift c v
      = crcBits k ((c <<< k >>> k) ^^^ crcTop (c.extractLsb' (16 - k) k ^^^ v)) := by
        rw [crcTop_xor, ← BitVec.xor_assoc, low_xor_crcTop hk, crcShift_eq_crcBits]
    _ = (c <<< k) ^^^ crcShift 0#16 (c.extractLsb' (16 - k) k ^^^ v) := by
        rw [crcBits_xor, crcBits_ushiftRight hk, shiftLeft_ushiftRight_shiftLeft, crcShift_eq_crcBits, BitVec.zero_xor]

/-- Feeding two values one after the other is feeding their bits in a row. -/
theorem crcShift_append {j k : Nat} (h : j + k ≤ 16) (c : Word) (u : BitVec j) (v : BitVec k) :
    crcShift c (u ++ v) = crcShift (crcShift c u) v := by
  rw [crcShift_eq_crcBits, crcTop_append h, crcBits_add, ← BitVec.xor_assoc, crcBits_xor j,
    crcBits_ushiftRight (Nat.le_of_add_right_le h), crcTop_ushiftRight_shiftLeft h]
  rfl

theorem crcTable_eq_crcShift : ∀ i : Nibble, crcTable i = crcShift 0#16 i := by decide

theorem crcNib_eq_crcShift (c : Word) (n : Nibble) : crcNib c n = crcShift c n := by
  rw [crcNib, crcTable_eq_crcShift, crcShift_eq_table (k := 4) (by decide) c n]

/-- A byte is its two nibbles, the high one first. -/
theorem crcShift_byte (c : Word) (b : Byte) :
    crcShift c b = crcShift (crcShift c (b.extractLsb' 4 4)) (b.extractLsb' 0 4) := by
  have nibbles : b.extractLsb' 4 4 ++ b.extractLsb' 0 4 = b :=
    BitVec.extractLsb'_append_extractLsb' (w := 4) (len := 4)
  rw [← crcShift_append (j := 4) (k := 4) (by decide), nibbles]

theorem crcByte_eq_crcShift (c : Word) (b : Byte) : crcByte c b = crcShift c b := by
  rw [crcByte, crcNib_eq_crcShift, crcNib_eq_crcShift, highNibble, lowNibble, ← crcShift_byte]

/-- Settles O14: the nibble table is the bit-serial step from 0, and the table form holds for any width. -/
theorem nibbleTableIsTheBitSerialRule : Obligations.NibbleTableIsTheBitSerialRule :=
  ⟨by decide, crcTable_eq_crcShift, fun _ _ => rfl, crcNib_eq_crcShift, crcShift_eq_table (by decide),
    fun c b => (crcByte_eq_crcShift c b).symm⟩

/-! ## The requests (40_checksum.md R83 to R87) -/

theorem exec_crcSeed_of_free (v : Word) {s : State} (free : s.block.capActive = false) :
    exec (.crcSeed v) s = .next (answered s { s.block with crc := v, connected := true } 0x0000#16 []) := by
  rw [exec_crcSeed, execCrcSeed, whenNotCapturing_of_free _ free]
  rfl

theorem exec_crcSeed_of_capturing (v : Word) {s : State} (capturing : s.block.capActive = true) :
    exec (.crcSeed v) s = .next (errored s 3#3 0x04#8) := by
  rw [exec_crcSeed, execCrcSeed, whenNotCapturing_of_capturing _ capturing]
  rfl

/-- Settles O9: the seed is loaded where no capture runs, and CAPTURE_BUSY raised where one does. -/
theorem crcSeedLoadsAndOpensSession : Obligations.CrcSeedLoadsAndOpensSession :=
  fun _ v => ⟨decodeRequest_of_encode (i := .crcSeed v) rfl, exec_crcSeed_of_free v, exec_crcSeed_of_capturing v⟩

/-- A request under the conditions of 60_exceptions.md R164, orders 2 and 3, with this effect in a session. -/
def SessionRequest (i : Instr) (effect : State → Result) : Prop := ∀ s, exec i s = whenInSession effect s

section SessionRequest
variable {i : Instr} {effect : State → Result} (r : SessionRequest i effect) {s : State}
include r

theorem SessionRequest.exec_of_session (free : s.block.capActive = false) (session : s.block.connected = true) :
    exec i s = effect s := (r s).trans (whenInSession_of_session effect free session)

theorem SessionRequest.exec_of_capturing (capturing : s.block.capActive = true) :
    exec i s = .next (errored s 3#3 0x04#8) := (r s).trans (whenInSession_of_capturing effect capturing)

theorem SessionRequest.exec_of_no_session (free : s.block.capActive = false) (closed : s.block.connected = false) :
    exec i s = .next (errored s 2#3 0x02#8) := (r s).trans (whenInSession_of_no_session effect free closed)

end SessionRequest

theorem crcUpdateByte_sessionRequest (b : Byte) :
    SessionRequest (.crcUpdateByte b) fun s =>
      .next (answered s { s.block with crc := crcShift s.block.crc b } 0x0000#16 []) := by
  intro s
  simp only [← crcByte_eq_crcShift]
  rfl

theorem crcUpdateNibble_sessionRequest (n : Nibble) :
    SessionRequest (.crcUpdateNibble n) fun s =>
      .next (answered s { s.block with crc := crcShift s.block.crc n } 0x0000#16 []) := by
  intro s
  simp only [← crcNib_eq_crcShift]
  rfl

theorem crcRead_sessionRequest :
    SessionRequest .crcRead fun s => .next (answered s s.block s.block.crc []) := fun _ => rfl

theorem crcCheck_sessionRequest (v : Word) :
    SessionRequest (.crcCheck v) fun s =>
      if s.block.crc = v then .next (answered s s.block 0x0001#16 [])
      else .next (answered s { s.block with errFlags := s.block.errFlags ||| 0x20#8 } 0x0000#16 []) := fun _ => rfl

theorem encode_crcUpdateNibble (n : Nibble) : encode (.crcUpdateNibble n) = .request (0x3000#16 ++ n) :=
  congrArg _ (requestWord_zeroExtend (m := 12) rfl opCrcUpdateNibble n)

theorem decodeRequest_crcRead (x : Word) :
    decodeRequest (0x4#4 ++ x) = if x = 0#16 then .ok .crcRead else .error (.mustBeZero (0x4#4 ++ x)) := by
  change decodeRequest (requestWord opCrcRead x) = if _ then _ else .error (.mustBeZero (requestWord opCrcRead x))
  by_cases h : x = 0#16 <;> simp [decodeRequest, opCrcRead, operandNone, h]

/-- Settles O10: the request's effect is the byte's CRC, which is two nibble steps. -/
theorem crcUpdateByteFeedsEightBits : Obligations.CrcUpdateByteFeedsEightBits := by
  intro s b
  have request := crcUpdateByte_sessionRequest b
  exact ⟨decodeRequest_of_encode (encode_crcUpdateByte b), crcByte_eq_crcShift s.block.crc b, request.exec_of_session,
    request.exec_of_capturing, request.exec_of_no_session⟩

/-- Settles O11: the request's effect is the nibble's CRC, and the CRC of a byte is that of its two nibbles. -/
theorem crcUpdateNibbleFeedsFourBits : Obligations.CrcUpdateNibbleFeedsFourBits := by
  intro s n b
  have request := crcUpdateNibble_sessionRequest n
  refine ⟨decodeRequest_of_encode (encode_crcUpdateNibble n), crcNib_eq_crcShift s.block.crc n, request.exec_of_session,
    fun free session => ?_, request.exec_of_capturing, request.exec_of_no_session⟩
  refine ⟨_, _, _, (crcUpdateNibble_sessionRequest _).exec_of_session free session,
    (crcUpdateNibble_sessionRequest _).exec_of_session free session,
    (crcUpdateByte_sessionRequest b).exec_of_session free session, ?_⟩
  simp only [answered, crcShift_byte]

/-- Settles O12: the request's effect is to answer `crc`, which CRC_SEED has set to its operand. -/
theorem crcReadReturnsTheAccumulator : Obligations.CrcReadReturnsTheAccumulator := by
  have request := crcRead_sessionRequest
  refine ⟨decodeRequest_crcRead, fun s => ⟨request.exec_of_session, request.exec_of_capturing,
    request.exec_of_no_session, fun v t free seeded => ?_⟩⟩
  obtain rfl := Host.Outcome.next.inj ((exec_crcSeed_of_free v free).symm.trans seeded)
  exact request.exec_of_session free rfl

/-- Settles O13: the request's effect turns on whether `crc` is the operand. -/
theorem crcCheckComparesAndWarns : Obligations.CrcCheckComparesAndWarns := by
  intro s v
  have request := crcCheck_sessionRequest v
  exact ⟨decodeRequest_of_encode (i := .crcCheck v) rfl,
    fun free session same => (request.exec_of_session free session).trans (if_pos same),
    fun free session differs => (request.exec_of_session free session).trans (if_neg differs),
    request.exec_of_capturing, request.exec_of_no_session⟩

/-! ## Runs (40_checksum.md R88) -/

theorem crcUpdate_append (c : Word) (a b : List Byte) : crcUpdate (crcUpdate c a) b = crcUpdate c (a ++ b) :=
  List.foldl_append.symm

theorem step_of_updateRequest {s : State} {b : Byte} {ws : List RequestWord} (ha : s.host.awaiting = none)
    (session : s.block.connected = true) (free : s.block.capActive = false) (h : s.issued = (0x200#12 ++ b) :: ws) :
    step s = .next (answered { s with issued := ws } { s.block with crc := crcShift s.block.crc b } 0x0000#16 []) :=
  (step_of_issued ha h (decodeRequest_of_encode (encode_crcUpdateByte b))).trans
    ((crcUpdateByte_sessionRequest b).exec_of_session (s := { s with issued := ws }) free session)

/-- Issued CRC_UPDATE_BYTE requests are answered one a step, before what was issued after them. -/
theorem run_updateWords (bytes : List Byte) {s : State} (ha : s.host.awaiting = none)
    (session : s.block.connected = true) (free : s.block.capActive = false) :
    Host.Core.run core bytes.length { s with issued := updateWords bytes ++ s.issued }
      = .next
        { s with
          block := { s.block with crc := crcUpdate s.block.crc bytes }
          responses := s.responses ++ List.replicate bytes.length ⟨0#3, 0x0000#16, []⟩ } := by
  induction bytes generalizing s with
  | nil => simp [Host.Core.run, updateWords, crcUpdate]
  | cons b bytes ih =>
    have first := step_of_updateRequest (s := { s with issued := updateWords (b :: bytes) ++ s.issued }) ha session free
      rfl
    have others := ih (s := answered s { s.block with crc := crcShift s.block.crc b } 0x0000#16 []) ha session free
    simp only [answered, List.append_assoc] at others
    exact (run_of_step first _).trans others

/-- The order of the bytes matters (40_checksum.md R88); evaluated through the nibble table. -/
theorem crcUpdate_order_example : crcUpdate 0x0000#16 [0x41#8, 0x42#8] = 0x567B#16 ∧
    crcUpdate 0x0000#16 [0x42#8, 0x41#8] = 0x334B#16 := by
  simp only [crcUpdate, ← crcByte_eq_crcShift]
  decide

/-- Settles O16: one step per request, by induction on the bytes, and `update` is a left fold. -/
theorem crcUpdateRunFoldsTheBytes : Obligations.CrcUpdateRunFoldsTheBytes :=
  ⟨fun _ bytes => run_updateWords bytes, fun c a b => ⟨crcUpdate_append c a b, rfl⟩, crcUpdate_order_example⟩

end Sys2Proof.Claims
end

section
/-! A bridge command, said once (41_session_boundary.md R103 to R116): the gate it passes, the bytes it sends and the reply it
reads, and from these everything that it can do. -/

namespace Sys2Proof.Claims

open Sys2Proof.Machine

/-! ## The gate of a command (R104, R114; 70_reset_and_hazards.md R183, R187) -/

/-- The host begins this command: no capture, no stream on the channel, and the session that the command needs. -/
structure Admitted (i : Instr) (s : State) : Prop where
  free : s.block.capActive = false
  clear : s.host.channel = .clear
  session : mayBeSent i s

theorem Live.admitted {s : State} (h : Live s) (i : Instr) : Admitted i s := by
  obtain ⟨session, free, clear, -⟩ := h
  exact ⟨free, clear, fun _ => .inl session⟩

theorem Live.up {s : State} (h : Live s) : s.host.linkDown = false := by
  obtain ⟨-, -, -, up⟩ := h
  exact up

/-- The gate that a command passes: that of R105 to R113, but that of a connect for a probe and for a connect's status query. -/
def gate (i : Instr) (k : State → Result) (s : State) : Result :=
  if needsSession i = true ∧ ¬ (i = .hostStatus ∧ connecting s = true) then whenLive k s else whenOpen k s

section Gate
variable {i : Instr} {s : State} (k : State → Result)

theorem gate_of_admitted (h : Admitted i s) : gate i k s = k s := by
  unfold gate
  split
  · next needs => exact whenLive_of_session k h.free ((h.session needs.1).resolve_right needs.2) h.clear
  · exact whenOpen_of_open k h.free h.clear

theorem gate_of_capturing (capturing : s.block.capActive = true) : gate i k s = .next (turnedAway s .captureActive) := by
  unfold gate
  split
  · exact whenLive_of_capturing k capturing
  · exact whenOpen_of_capturing k capturing

theorem gate_of_no_session (free : s.block.capActive = false) (closed : s.block.connected = false)
    (needs : needsSession i = true) (query : i = .hostStatus → connecting s = false) :
    gate i k s = .next (turnedAway s .notConnected) := by
  have live : ¬ (i = .hostStatus ∧ connecting s = true) := fun ⟨hi, hc⟩ => by simp [query hi] at hc
  rw [gate, if_pos ⟨needs, live⟩]
  exact whenLive_of_no_session k free closed

theorem gate_of_abandoned (free : s.block.capActive = false) (stream : s.host.channel ≠ .clear) (may : mayBeSent i s) :
    gate i k s = .next (turnedAway s .channelAbandoned) := by
  unfold gate
  split
  · next needs => exact whenLive_of_abandoned k free ((may needs.1).resolve_right needs.2) stream
  · exact whenOpen_of_abandoned k free stream

/-- A command that is not admitted is turned away. -/
theorem admitted_or_turnedAway : Admitted i s ∨ ∃ r, gate i k s = .next (turnedAway s r) := by
  by_cases capturing : s.block.capActive = true
  · exact .inr ⟨_, gate_of_capturing k capturing⟩
  have free := Bool.eq_false_of_not_eq_true capturing
  by_cases may : mayBeSent i s
  · by_cases clear : s.host.channel = .clear
    · exact .inl ⟨free, clear, may⟩
    · exact .inr ⟨_, gate_of_abandoned k free clear may⟩
  · simp only [mayBeSent, not_forall, not_or, Bool.not_eq_true, not_and] at may
    obtain ⟨needs, closed, query⟩ := may
    exact .inr ⟨_, gate_of_no_session k free closed needs query⟩

end Gate

/-! ## What a command sends and reads -/

/-- The reply that a command reads (R104 to R111); the other commands read none. -/
def replyFor : Instr → Option Await
  | .hostStatus => some ⟨statusBytes, .status⟩
  | .hostScan => some ⟨scanBytes, .scan⟩
  | .hostEchoProbe test => some ⟨1, .echo test⟩
  | .hostI2cStart _ _ => some ⟨1, .startAck⟩
  | .hostBusReset => some ⟨1, .busReset⟩
  | .hostReadChunk n => some ⟨chunkLength n, .readData⟩
  | .hostWriteChunk _ data => some ⟨1, .writeAck data⟩
  | _ => none

/-- What a command does after its bytes are out: it reads its reply, or is done. -/
def afterSending (i : Instr) (s : State) : Result :=
  match replyFor i with
  | some a => readExact a.count a.purpose s
  | none => noReply (if i = .hostEnterCapture then issue [.capEnter] (beginStream s) else s)

/-- The bytes of a command went out. -/
def sending (i : Instr) (s : State) : State :=
  { s with host := { s.host with tx := s.host.tx ++ encodeCommand i } }

/-- This read is in progress. -/
def reading (a : Await) (s : State) : State := { s with host := { s.host with awaiting := some a } }

theorem encode_bridgeCommand {i : Instr} (hi : onBlock i = false) : encode i = .command (encodeCommand i) := by
  cases i with
  | hostMonitorOff | hostStatus | hostEnterCapture | hostScan | hostEchoProbe _ | hostMonitorOn | hostI2cStop
  | hostI2cStart _ _ | hostBusReset | hostReadChunk _ | hostWriteChunk _ _ => rfl
  | _ => cases hi

/-- Every bridge command is its gate, its bytes, and its reply. -/
theorem exec_bridgeCommand {i : Instr} (hi : onBlock i = false) (s : State) :
    exec i s = gate i (writeExact (encodeCommand i) (afterSending i)) s := by
  cases i with
  | hostStatus =>
    rw [exec_hostStatus, execHostStatus, gate]
    cases connecting s <;> rfl
  | hostEchoProbe test => rfl
  | hostMonitorOff | hostEnterCapture | hostScan | hostMonitorOn | hostI2cStop | hostI2cStart _ _ | hostBusReset
  | hostReadChunk _ | hostWriteChunk _ _ => rfl
  | _ => cases hi

section Admitted
variable {i : Instr} {s : State} (hi : onBlock i = false) (adm : Admitted i s)
include hi adm

theorem exec_of_down (down : s.host.linkDown = true) : exec i s = .next (tornDown s) := by
  rw [exec_bridgeCommand hi, gate_of_admitted _ adm, writeExact_of_down _ _ down]
  rfl

theorem exec_of_up (up : s.host.linkDown = false) : exec i s = afterSending i (sending i s) := by
  rw [exec_bridgeCommand hi, gate_of_admitted _ adm, writeExact_of_up _ _ up]
  rfl

theorem exec_of_replyFor (up : s.host.linkDown = false) {a : Await} (hr : replyFor i = some a) :
    exec i s = .next (resumeRead a (reading a (sending i s))) := by
  rw [exec_of_up hi adm up, afterSending, hr]
  rfl

theorem exec_of_no_reply (up : s.host.linkDown = false) (hr : replyFor i = none) (hc : i ≠ .hostEnterCapture) :
    exec i s = .next (report .sent (sending i s)) := by
  rw [exec_of_up hi adm up, afterSending, hr]
  simp only [if_neg hc]
  rfl

end Admitted

/-- Everything that a bridge command can do. -/
theorem exec_bridgeCommand_cases {i : Instr} (hi : onBlock i = false) (s : State) :
    (∃ r, exec i s = .next (turnedAway s r)) ∨
    exec i s = .next (tornDown s) ∨
    (i = .hostEnterCapture ∧ exec i s = .next (report .sent (issue [.capEnter] (beginStream (sending i s))))) ∨
    (replyFor i = none ∧ exec i s = .next (report .sent (sending i s))) ∨
    (∃ a, replyFor i = some a ∧ Admitted i s ∧ s.host.linkDown = false ∧
      exec i s = .next (resumeRead a (reading a (sending i s)))) := by
  obtain adm | ⟨r, turned⟩ := admitted_or_turnedAway (i := i) (s := s) (writeExact (encodeCommand i) (afterSending i))
  · cases up : s.host.linkDown with
    | true => exact .inr (.inl (exec_of_down hi adm up))
    | false =>
      cases hr : replyFor i with
      | some a => exact .inr (.inr (.inr (.inr ⟨a, rfl, adm, rfl, exec_of_replyFor hi adm up hr⟩)))
      | none =>
        by_cases hc : i = .hostEnterCapture
        · subst hc
          exact .inr (.inr (.inl ⟨rfl, exec_of_up hi adm up⟩))
        · exact .inr (.inr (.inr (.inl ⟨rfl, exec_of_no_reply hi adm up hr hc⟩)))
  · exact .inl ⟨r, (exec_bridgeCommand hi s).trans turned⟩

end Sys2Proof.Claims
end

section
/-! An exchange with the bridge (41_session_boundary.md R103 to R116): how far a read gets, what its end does, and the
statements about one command and its reply. -/

namespace Sys2Proof.Claims

open Sys2Proof.Machine

/-! ## The driver's operations after an exchange -/

section Exchanged
variable (s : State) (sent : List Byte) (rest : List Delivery) (task : Task) (results : List HostResult)
  (words : List RequestWord)

@[simp] theorem report_exchanged (r : HostResult) :
    report r (exchanged s sent rest task results words) = exchanged s sent rest task (results ++ [r]) words := by
  simp [report, exchanged]

@[simp] theorem setTask_exchanged (t : Task) :
    setTask t (exchanged s sent rest task results words) = exchanged s sent rest t results words := rfl

@[simp] theorem finish_exchanged (r : HostResult) :
    finish r (exchanged s sent rest task results words) = exchanged s sent rest .idle (results ++ [r]) words := by
  simp [finish]

@[simp] theorem issue_exchanged (is : List Instr) :
    issue is (exchanged s sent rest task results words)
      = exchanged s sent rest task results (words ++ is.map encodeRequest) := by
  simp [issue, exchanged]

@[simp] theorem map_encodeRequest_crcUpdate (bytes : List Byte) :
    (Pseudo.expand (.crcUpdate bytes)).map encodeRequest = updateWords bytes := by
  rw [Pseudo.expand, List.map_map]
  exact List.map_congr_left fun b _ => encodeRequest_of_encode (encode_crcUpdateByte b)

theorem capByte_word (b : Byte) : [Instr.capByte b].map encodeRequest = [0x800#12 ++ b] := by
  rw [← encodeRequest_of_encode (encode_capByte b)]
  rfl

@[simp] theorem issueCrcUpdate_exchanged (bytes : List Byte) :
    issueCrcUpdate bytes (exchanged s sent rest task results words)
      = exchanged s sent rest task results (words ++ updateWords bytes) := by
  simp [issueCrcUpdate]

theorem finishWrite_exchanged (payload : List Byte) (allAck : Bool) :
    finishWrite payload allAck (exchanged s sent rest task results words)
      = exchanged s sent rest .idle (results ++ [.written (if allAck = true then .ack else .nak)])
          (words ++ if allAck = true ∨ s.params.writeNakCrc = .always then updateWords payload else []) := by
  have params : (exchanged s sent rest task results words).params = s.params := rfl
  by_cases enters : allAck = true ∨ s.params.writeNakCrc = .always
  · simp [finishWrite, params, enters]
  · simp [finishWrite, params, enters]

/-- One exchange after another is one exchange. -/
theorem exchanged_exchanged (sent' : List Byte) (rest' : List Delivery) (task' : Task) (results' : List HostResult)
    (words' : List RequestWord) :
    exchanged (exchanged s sent rest task results words) sent' rest' task' results' words'
      = exchanged s (sent ++ sent') rest' task' (results ++ results') (words ++ words') := by
  simp [exchanged]

end Exchanged

/-- With no read in progress an exchange of nothing is no change. -/
theorem exchanged_nothing {s : State} (ha : s.host.awaiting = none) :
    exchanged s [] s.host.rx s.host.task [] [] = s := by
  simp [exchanged, ← ha]

theorem finish_eq_exchanged {s : State} (r : HostResult) (ha : s.host.awaiting = none) :
    finish r s = exchanged s [] s.host.rx .idle [r] [] := by
  simp [finish, report, setTask, exchanged, ← ha]

theorem endRead_eq_exchanged (rest : List Delivery) (s : State) :
    endRead rest s = exchanged s [] rest s.host.task [] [] := by
  simp [endRead, exchanged]

theorem endRead_reading_sending (rest : List Delivery) (a : Await) (i : Instr) (s : State) :
    endRead rest (reading a (sending i s)) = exchanged s (encodeCommand i) rest s.host.task [] [] := by
  simp [endRead, reading, sending, exchanged]

/-! ## What a whole reply does, by what is left of its procedure -/

section Arrived
variable {s : State}

theorem writeAckArrived_last (data : List Byte) (a : Byte) (last : writeLeft s.host.task = []) :
    writeAckArrived data a s
      = finishWrite (writeSent s.host.task ++ data) (writeAllAck s.host.task && writeAcked s.params.writeAckBit a) s := by
  simp only [writeAckArrived, last]

theorem writeAckArrived_more (data : List Byte) (a : Byte) (more : writeLeft s.host.task ≠ []) :
    writeAckArrived data a s
      = setTask (.write (writeLeft s.host.task) (writeSent s.host.task ++ data)
          (writeAllAck s.host.task && writeAcked s.params.writeAckBit a)) s := by
  obtain ⟨b, left, h⟩ := List.exists_cons_of_ne_nil more
  simp only [writeAckArrived, h]

theorem readDataArrived_last (bytes : List Byte) (last : readLeft s.host.task = 0) :
    readDataArrived bytes s = issueCrcUpdate bytes (finish (.data (readGot s.host.task ++ bytes)) s) := by
  simp only [readDataArrived, last]

theorem readDataArrived_more (bytes : List Byte) (more : readLeft s.host.task ≠ 0) :
    readDataArrived bytes s
      = issueCrcUpdate bytes (setTask (.read (readLeft s.host.task) (readGot s.host.task ++ bytes)) s) := by
  obtain ⟨left, h⟩ := Nat.exists_eq_succ_of_ne_zero more
  simp only [readDataArrived, h]

theorem echoArrived_same_in_connect (test : Byte) (inside : connecting s = true) : echoArrived test [test] s = s := by
  simp [echoArrived, inside]

theorem echoArrived_same (test : Byte) (outside : connecting s = false) :
    echoArrived test [test] s = report .echoed s := by
  simp [echoArrived, outside]

theorem echoArrived_other {test e : Byte} (differs : e ≠ test) :
    echoArrived test [e] s = finish .handshakeFailed s := by
  simp [echoArrived, differs]

theorem statusArrived_malformed {record : List Byte} (hp : Config.parseStatusCrc record = none) :
    statusArrived record s = finish .statusParseError s := by
  simp only [statusArrived, hp]

theorem statusArrived_in_connect {record : List Byte} {v : Word} (hp : Config.parseStatusCrc record = some v)
    (inside : connecting s = true) : statusArrived record s = issue [.crcSeed v] (finish (.session v) s) := by
  simp only [statusArrived, hp, if_pos inside]

theorem statusArrived_parsed {record : List Byte} {v : Word} (hp : Config.parseStatusCrc record = some v)
    (outside : connecting s = false) : statusArrived record s = report (.status v) s := by
  simp [statusArrived, hp, outside]

end Arrived

/-! ## How far a read gets -/

section Reply
variable {s : State} {a : Await} {bytes : List Byte} {rest : List Delivery}

theorem replyOf_done (hrx : s.host.rx = delivered bytes rest) (hlen : bytes.length = a.count) :
    replyOf a s = .done bytes rest := by
  rw [replyOf, hrx, ← hlen]
  exact takeReply_done _ bytes rest

theorem replyOf_failed (hrx : s.host.rx = delivered bytes (.failure :: rest)) (hlen : bytes.length < a.count) :
    replyOf a s = .failed rest := by
  rw [replyOf, hrx]
  exact takeReply_failed _ rest hlen

theorem replyOf_short (hrx : s.host.rx = delivered bytes []) (hlen : bytes.length < a.count) :
    replyOf a s = .short := by
  rw [replyOf, hrx, delivered, List.append_nil]
  exact takeReply_short _ hlen

/-- A command whose reply is there has the reply's effect after the exchange. -/
theorem exec_of_done {i : Instr} (hi : onBlock i = false) (adm : Admitted i s) (up : s.host.linkDown = false)
    (hr : replyFor i = some a) (h : replyOf a s = .done bytes rest) :
    exec i s = .next (replyArrived a.purpose bytes (exchanged s (encodeCommand i) rest s.host.task [] [])) := by
  rw [exec_of_replyFor hi adm up hr, resumeRead_of_done (s := reading a (sending i s)) h, endRead_reading_sending]

theorem exec_of_failed {i : Instr} (hi : onBlock i = false) (adm : Admitted i s) (up : s.host.linkDown = false)
    (hr : replyFor i = some a) (h : replyOf a s = .failed rest) :
    exec i s = .next (readFailed a.purpose (exchanged s (encodeCommand i) rest s.host.task [] [])) := by
  have failed : replyOf a (reading a (sending i s)) = .failed rest := h
  rw [exec_of_replyFor hi adm up hr, resumeRead, failed]
  simp only [endRead_reading_sending]

/-- A step that goes on with a read whose reply is there. -/
theorem step_of_done (hw : s.host.awaiting = some a) (h : replyOf a s = .done bytes rest) :
    step s = .next (replyArrived a.purpose bytes (endRead rest s)) := by
  rw [step_of_waiting hw, waitStep_of_reply (by simp [h]), resumeRead_of_done h]

theorem step_of_failed (hw : s.host.awaiting = some a) (h : replyOf a s = .failed rest) :
    step s = .next (readFailed a.purpose (endRead rest s)) := by
  rw [step_of_waiting hw, waitStep_of_reply (by simp [h]), resumeRead, h]

end Reply

/-! ## The statements about one command (R104 to R113) -/

/-- Settles O43: each is a command without a reply, with its one byte. -/
theorem stopAndMonitorSendOneByte : Obligations.StopAndMonitorSendOneByte := by
  intro s live
  have sent (i : Instr) (hi : onBlock i = false) (hr : replyFor i = none) (hc : i ≠ .hostEnterCapture) :
      exec i s = .next (report .sent (sending i s)) :=
    exec_of_no_reply hi (live.admitted i) live.up hr hc
  exact ⟨sent .hostI2cStop rfl rfl nofun, sent .hostMonitorOn rfl rfl nofun, sent .hostMonitorOff rfl rfl nofun⟩

/-- Settles O46: the record is there, and is parsed outside a connect. -/
theorem statusQueryReadsTheRecord : Obligations.StatusQueryReadsTheRecord := by
  intro s record rest live outside hlen hrx
  rw [exec_of_done rfl (live.admitted _) live.up rfl (replyOf_done hrx hlen), replyArrived]
  cases hp : Config.parseStatusCrc record with
  | none =>
    rw [statusArrived_malformed hp, finish_exchanged]
    rfl
  | some v =>
    rw [statusArrived_parsed (s := exchanged s _ rest _ [] []) hp outside, report_exchanged]
    rfl

/-- Settles O48: one byte, or the levels of a failed read. -/
theorem busResetReadsTheLevels : Obligations.BusResetReadsTheLevels := by
  refine ⟨fun s b rest live => ⟨fun hrx => ?_, fun hrx => ?_⟩, fun s rest hw hrx => ?_⟩
  · rw [exec_of_done rfl (live.admitted _) live.up rfl (replyOf_done (bytes := [b]) hrx rfl), replyArrived,
      oneByte, busResetArrived, report_exchanged]
    rfl
  · rw [exec_of_failed rfl (live.admitted _) live.up rfl (replyOf_failed (bytes := []) hrx Nat.one_pos),
      readFailed, report_exchanged]
    rfl
  · rw [step_of_failed hw (replyOf_failed (bytes := []) hrx Nat.one_pos), readFailed, report_endRead]

/-- The address byte is the address, shifted by one, and the direction bit. -/
theorem startAddressByte_eq_or (address : BitVec 7) (dir : Direction) :
    startAddressByte address dir = (address.zeroExtend 8 <<< 1) ||| (if dir = .read then 1#8 else 0#8) := by
  cases dir <;> revert address <;> decide

/-- Settles O49: one ack byte. -/
theorem i2cStartReadsItsAck : Obligations.I2cStartReadsItsAck := by
  intro s address dir a rest live hrx
  rw [exec_of_done rfl (live.admitted _) live.up rfl (replyOf_done (bytes := [a]) hrx rfl), replyArrived,
    oneByte, report_exchanged, ← startAddressByte_eq_or]
  rfl

/-- Settles O50: outside a write the chunk is the whole write. -/
theorem writeChunkSendsAndReadsItsAck : Obligations.WriteChunkSendsAndReadsItsAck := by
  intro s n data a rest live idle hrx
  rw [exec_of_done rfl (live.admitted _) live.up rfl (replyOf_done (bytes := [a]) hrx rfl), replyArrived, oneByte, idle,
    writeAckArrived_last data a rfl, finishWrite_exchanged]
  have acked : (writeAllAck .idle && writeAcked s.params.writeAckBit a) = true ↔ a.getLsbD 0 = s.params.writeAckBit := by
    simp only [writeAllAck, writeAcked, Bool.true_and, beq_iff_eq]
  simp only [← acked]
  rfl

/-- Settles O51: outside a read the chunk is the whole read. -/
theorem readChunkReadsItsBytes : Obligations.ReadChunkReadsItsBytes := by
  intro s n bytes rest live idle hlen hrx
  rw [exec_of_done rfl (live.admitted _) live.up rfl (replyOf_done hrx hlen), replyArrived, idle,
    readDataArrived_last bytes rfl, finish_exchanged, issueCrcUpdate_exchanged]
  rfl

/-- Settles O45: the echo that is there is compared, and a failed read is HandshakeFailed. -/
theorem echoProbeComparesTheEcho : Obligations.EchoProbeComparesTheEcho := by
  refine ⟨fun s test e rest free clear up => ?_, fun s test rest hw hrx => ?_⟩
  · have adm : Admitted (.hostEchoProbe test) s := ⟨free, clear, nofun⟩
    refine ⟨fun hrx => ?_, fun hrx => ?_⟩
    · rw [exec_of_done rfl adm up rfl (replyOf_done (bytes := [e]) hrx rfl), replyArrived]
      refine ⟨fun same inside => ?_, fun same outside => ?_, fun differs => ?_⟩
      · rw [same, echoArrived_same_in_connect (s := exchanged s _ rest _ [] []) test inside]
        rfl
      · rw [same, echoArrived_same (s := exchanged s _ rest _ [] []) test outside, report_exchanged]
        rfl
      · rw [echoArrived_other differs, finish_exchanged]
        rfl
    · rw [exec_of_failed rfl adm up rfl (replyOf_failed (bytes := []) hrx Nat.one_pos), readFailed, finish_exchanged]
      rfl
  · rw [step_of_failed hw (replyOf_failed (bytes := []) hrx Nat.one_pos), readFailed, finish_endRead]

end Sys2Proof.Claims
end

section
/-! Every bridge command and every step of its read (41_session_boundary.md R103, R114, R116): when one is turned away or torn
down, what none of them changes, how a read goes on, and which requests they issue. -/

namespace Sys2Proof.Claims

open Sys2Proof.Machine

/-! ## Turned away, torn down, waiting -/

theorem step_of_opInput {s : State} {o : HostOp} {xs : List Input} (hq : s.Quiet) (h : s.inputs = .op o :: xs) :
    step s = startOp o { s with inputs := xs } := by
  obtain ⟨awaiting, issued, task⟩ := hq
  exact step_of_op awaiting issued task h

/-- A procedure that needs a session is turned away in three cases, which exclude each other. -/
theorem whenLive_turnedAway (k : State → Result) (s : State) :
    (s.block.capActive = true → whenLive k s = .next (turnedAway s .captureActive)) ∧
    (s.block.capActive = false → s.block.connected = false → whenLive k s = .next (turnedAway s .notConnected)) ∧
    (s.block.capActive = false → s.host.channel ≠ .clear → s.block.connected = true →
      whenLive k s = .next (turnedAway s .channelAbandoned)) :=
  ⟨whenLive_of_capturing k, whenLive_of_no_session k,
    fun free stream session => whenLive_of_abandoned k free session stream⟩

/-- Settles O42: a command is turned away by its gate, a procedure by the gate it begins with. -/
theorem commandsNeedASessionAndNoCapture : Obligations.CommandsNeedASessionAndNoCapture := by
  refine ⟨fun s i hi => ?_, fun s o xs hq h ho => ?_, fun s xs hq h => ?_⟩
  · rw [exec_bridgeCommand hi]
    exact ⟨fun needs free closed query => gate_of_no_session _ free closed needs query, gate_of_capturing _,
      gate_of_abandoned _⟩
  · rw [step_of_opInput hq h]
    obtain rfl | ⟨bytes, rfl⟩ | ⟨count, rfl⟩ := ho
    · exact ⟨whenOpen_of_capturing (s := { s with inputs := xs }) _, fun _ _ other => absurd rfl other,
        fun free stream _ => whenOpen_of_abandoned (s := { s with inputs := xs }) _ free stream⟩
    · obtain ⟨capture, session, stream⟩ := whenLive_turnedAway (startWrite bytes) { s with inputs := xs }
      exact ⟨capture, fun free closed _ => session free closed,
        fun free old connected => stream free old (connected nofun)⟩
    · obtain ⟨capture, session, stream⟩ := whenLive_turnedAway (startRead count) { s with inputs := xs }
      exact ⟨capture, fun free closed _ => session free closed,
        fun free old connected => stream free old (connected nofun)⟩
  · rw [step_of_opInput hq h, startOp]
    exact ⟨fun free => whenStreaming_of_no_capture (s := { s with inputs := xs }) _ free,
      fun capturing old => whenStreaming_of_old (s := { s with inputs := xs }) _ capturing old⟩

/-- Everything a step does that goes on with a read. -/
theorem waitStep_cases (a : Await) (s : State) :
    waitStep a s = resumeRead a s ∨
    (∃ rest, s.inputs = .reset :: rest ∧ waitStep a s = resetSignal { s with inputs := rest }) ∨
    (∃ x rest, (x = .exit ∨ x = .op .close) ∧ s.inputs = x :: rest ∧
      waitStep a s = tearDown .closed { s with inputs := rest }) := by
  by_cases short : replyOf a s = .short
  · unfold waitStep
    rw [resumeRead_of_short short, short]
    dsimp only
    split
    · next rest hx => exact .inr (.inl ⟨rest, hx, rfl⟩)
    · next rest hx => exact .inr (.inr ⟨_, rest, .inl rfl, hx, rfl⟩)
    · next rest hx =>
      split
      · exact .inr (.inr ⟨_, rest, .inr rfl, hx, rfl⟩)
      · exact .inl rfl
    · exact .inl rfl
  · exact .inl (waitStep_of_reply short)

/-- Settles O40: a command and its read are operations of the driver. -/
theorem bridgeCommandsLeaveTheBlock : Obligations.BridgeCommandsLeaveTheBlock := by
  refine ⟨fun i s t hi h => ?_, fun s t a hw h hr => ?_⟩
  · have m := exec_commandMove hi h
    exact ⟨m.block, m.responses, m.inputs, m.params, m.linkDown,
      m.tx.imp_right fun sent => ⟨_, encode_bridgeCommand hi, sent⟩⟩
  · rw [step_of_waiting hw] at h
    obtain rfl := Host.Outcome.next.inj h
    obtain e | ⟨rest, hx, e⟩ | ⟨x, rest, isEnd, hx, e⟩ := waitStep_cases a s <;> rw [e] at hr ⊢
    · have m := resumeRead_move a s
      exact ⟨m.block, m.responses, m.params, m.linkDown, m.tx, .inl m.inputs⟩
    · exact absurd hx hr
    · refine ⟨rfl, rfl, rfl, rfl, rfl, .inr ?_⟩
      obtain rfl | rfl := isEnd
      · exact .inr hx
      · exact .inl hx

/-- Settles O56: a write that fails and a read that fails tear the session down. -/
theorem transportErrorTearsDown : Obligations.TransportErrorTearsDown := by
  refine ⟨fun s i hi free clear may down => exec_of_down hi ⟨free, clear, may⟩ down,
    fun s a bytes rest hw hrx hlen echo reset => ?_⟩
  rw [step_of_failed hw (replyOf_failed hrx hlen)]
  cases hp : a.purpose with
  | echo test => exact absurd hp (echo test)
  | busReset => exact absurd hp reset
  | status | scan | startAck | writeAck _ | readData | captureByte => rfl

/-- A read that ends leaves none in progress. -/
theorem resumeRead_awaiting {a : Await} {s : State} (h : replyOf a s ≠ .short) :
    (resumeRead a s).host.awaiting = none := by
  unfold resumeRead
  split
  · contradiction
  · exact replyArrived_awaiting _ _ _
  · cases a.purpose <;> rfl
  · cases a.purpose <;> rfl

/-- Only a read that stays short stays in progress after its command. -/
theorem eq_reading_of_awaiting {i : Instr} {s t : State} {a : Await} (hi : onBlock i = false)
    (ha : s.host.awaiting = none) (h : exec i s = .next t) (hw : t.host.awaiting = some a) :
    Admitted i s ∧ s.host.linkDown = false ∧ replyFor i = some a ∧ t = reading a (sending i s) := by
  obtain ⟨r, e⟩ | e | ⟨-, e⟩ | ⟨-, e⟩ | ⟨b, hr, adm, up, e⟩ := exec_bridgeCommand_cases hi s <;>
    obtain rfl := Host.Outcome.next.inj (e.symm.trans h)
  · cases ha.symm.trans hw
  · cases hw
  · cases ha.symm.trans hw
  · cases ha.symm.trans hw
  · by_cases short : replyOf b (reading b (sending i s)) = .short
    · rw [resumeRead_of_short short] at hw ⊢
      obtain rfl := Option.some.inj hw
      exact ⟨adm, up, hr, rfl⟩
    · cases (resumeRead_awaiting short).symm.trans hw

/-- Settles O55: a short read waits, a whole one has its reply's effect, and a command whose read stays open is, with more in
the channel, the step that goes on with the read. -/
theorem readWaitsForItsReply : Obligations.ReadWaitsForItsReply := by
  refine ⟨fun s a bytes hw hrx hlen hr he hc => ?_, fun s a bytes rest hw hrx hlen => ?_,
    fun i s t a more hi ha h hw ends => ?_⟩
  · rw [step_of_waiting hw, waitStep_of_short (replyOf_short hrx hlen) hr he hc]
  · rw [step_of_done hw (replyOf_done hrx hlen)]
    rfl
  · obtain ⟨adm, up, hr, rfl⟩ := eq_reading_of_awaiting hi ha h hw
    have later : Admitted i (withMore more s) := ⟨adm.free, adm.clear, adm.session⟩
    rw [step_of_waiting (a := a) rfl, waitStep_of_reply ends, exec_of_replyFor hi later up hr]
    rfl

/-! ## The requests that bridge traffic issues (R103) -/

/-- The requests of a whole reply: CRC_SEED of a connect's record, CRC_UPDATE_BYTE of a write's bytes or of bytes read,
CAP_BYTE of a stream byte. -/
def IssuedByReply (p : Purpose) (bytes : List Byte) (s : State) (words : List RequestWord) : Prop :=
  (p = .status ∧ connecting s = true ∧ ∃ v : Word, words = [0x1#4 ++ v]) ∨
  (∃ data, p = .writeAck data ∧ words = updateWords (writeSent s.host.task ++ data)) ∨
  (p = .readData ∧ words = updateWords bytes) ∨
  (∃ b more, p = .captureByte ∧ bytes = b :: more ∧ words = [0x800#12 ++ b])

theorem issueCrcUpdate_issued (bytes : List Byte) (s : State) :
    (issueCrcUpdate bytes s).issued = s.issued ++ updateWords bytes := by
  rw [issueCrcUpdate, issue_issued, map_encodeRequest_crcUpdate]

theorem finish_issued (r : HostResult) (s : State) : (finish r s).issued = s.issued := rfl

theorem finishWrite_issued (payload : List Byte) (allAck : Bool) (s : State) :
    (finishWrite payload allAck s).issued = s.issued ∨
      (finishWrite payload allAck s).issued = s.issued ++ updateWords payload := by
  rw [finishWrite, finish_issued]
  split
  · exact .inr (issueCrcUpdate_issued payload s)
  · exact .inl rfl

/-- Nothing is issued, whatever else the requests could be. -/
theorem issues_nothing {s t : State} {P : List RequestWord → Prop} (h : t.issued = s.issued) :
    ∃ words, t.issued = s.issued ++ words ∧ (words = [] ∨ P words) :=
  ⟨[], by rw [h, List.append_nil], .inl rfl⟩

theorem replyArrived_issued (p : Purpose) (bytes : List Byte) (s : State) :
    ∃ words, (replyArrived p bytes s).issued = s.issued ++ words ∧ (words = [] ∨ IssuedByReply p bytes s words) := by
  cases p with
  | echo test =>
    refine issues_nothing ?_
    rw [replyArrived, echoArrived]
    split
    · split <;> rfl
    · rfl
  | status =>
    rw [replyArrived, statusArrived]
    split
    · exact issues_nothing rfl
    · next v _ =>
      split
      · next inside => exact ⟨[0x1#4 ++ v], rfl, .inr (.inl ⟨rfl, inside, v, rfl⟩)⟩
      · exact issues_nothing rfl
  | scan => exact issues_nothing rfl
  | busReset => cases bytes <;> exact issues_nothing rfl
  | startAck => cases bytes <;> exact issues_nothing rfl
  | writeAck data =>
    cases bytes with
    | nil => exact issues_nothing rfl
    | cons a more =>
      rw [replyArrived, oneByte]
      by_cases last : writeLeft s.host.task = []
      · rw [writeAckArrived_last data a last]
        obtain h | h := finishWrite_issued (writeSent s.host.task ++ data)
          (writeAllAck s.host.task && writeAcked s.params.writeAckBit a) s
        · exact issues_nothing h
        · exact ⟨_, h, .inr (.inr (.inl ⟨data, rfl, rfl⟩))⟩
      · rw [writeAckArrived_more data a last]
        exact issues_nothing rfl
  | readData =>
    refine ⟨updateWords bytes, ?_, .inr (.inr (.inr (.inl ⟨rfl, rfl⟩)))⟩
    rw [replyArrived]
    by_cases last : readLeft s.host.task = 0
    · rw [readDataArrived_last bytes last]
      exact issueCrcUpdate_issued _ _
    · rw [readDataArrived_more bytes last]
      exact issueCrcUpdate_issued _ _
  | captureByte =>
    cases bytes with
    | nil => exact issues_nothing rfl
    | cons b more =>
      refine ⟨[0x800#12 ++ b], ?_, .inr (.inr (.inr (.inr ⟨b, more, rfl, rfl, rfl⟩)))⟩
      rw [replyArrived, oneByte, issue_issued, capByte_word]

theorem replyArrived_rx (p : Purpose) (bytes : List Byte) (s : State) :
    (replyArrived p bytes s).host.rx = s.host.rx := by
  cases p <;>
    simp only [replyArrived, echoArrived, statusArrived, oneByte, writeAckArrived, finishWrite, readDataArrived,
      issueCrcUpdate, busResetArrived, finish] <;>
    (repeat' split) <;> rfl

theorem readFailed_issued (p : Purpose) (s : State) :
    (readFailed p s).issued = s.issued ∨ (readFailed p s).issued = s.issued ++ [0x90000#20] := by
  cases p with
  | echo _ | busReset => exact .inl rfl
  | status | scan | startAck | writeAck _ | readData | captureByte => exact .inr rfl

theorem readTimedOut_issued (p : Purpose) (s : State) : (readTimedOut p s).issued = s.issued := by
  cases p <;> rfl

/-- Going on with a read issues nothing, a tear-down's DISCONNECT, or the requests of the whole reply. -/
theorem resumeRead_issued (a : Await) (s : State) :
    ∃ words, (resumeRead a s).issued = s.issued ++ words ∧
      (words = [] ∨ words = [0x90000#20] ∨
        ∃ bytes rest, replyOf a s = .done bytes rest ∧ IssuedByReply a.purpose bytes s words) := by
  unfold resumeRead
  split
  · exact issues_nothing rfl
  · next bytes rest done =>
    obtain ⟨words, issued, which⟩ := replyArrived_issued a.purpose bytes (endRead rest s)
    exact ⟨words, issued, which.imp_right fun reply => .inr ⟨bytes, rest, done, reply⟩⟩
  · next rest _ =>
    obtain h | h := readFailed_issued a.purpose (endRead rest s)
    · exact issues_nothing h
    · exact ⟨_, h, .inr (.inl rfl)⟩
  · exact issues_nothing (readTimedOut_issued _ _)

/-- A whole reply consists of bytes of the channel. -/
theorem mem_of_takeReply_done {deadline : Bool} {n : Nat} {rx rest : List Delivery} {bytes : List Byte}
    (h : takeReply deadline n rx = .done bytes rest) : ∀ b ∈ bytes, .byte b ∈ rx := by
  induction rx generalizing n bytes rest with
  | nil => cases n <;> cases h; exact nofun
  | cons d rx ih =>
    cases n with
    | zero => cases h; exact nofun
    | succ n =>
      cases d with
      | byte c =>
        rw [takeReply] at h
        cases hr : takeReply deadline n rx with
        | done others r =>
          rw [hr] at h
          cases h
          intro b hb
          obtain rfl | hb := List.mem_cons.mp hb
          · exact List.mem_cons_self
          · exact List.mem_cons_of_mem _ (ih hr b hb)
        | short | failed _ | timedOut _ => rw [hr] at h; cases h
      | failure => cases h
      | deadline =>
        rw [takeReply] at h
        split at h
        · cases h
        · exact fun b hb => List.mem_cons_of_mem _ (ih h b hb)

/-! ## The gate of a procedure -/

section
variable (k : State → Result) (s : State)

theorem whenNotAbandoned_cases :
    whenNotAbandoned k s = k s ∨ ∃ r, whenNotAbandoned k s = .next (turnedAway s r) := by
  by_cases clear : s.host.channel = .clear
  · exact .inl (whenNotAbandoned_of_fresh k clear)
  · exact .inr ⟨_, whenNotAbandoned_of_stream k clear⟩

theorem whenOpen_cases : whenOpen k s = k s ∨ ∃ r, whenOpen k s = .next (turnedAway s r) := by
  cases capturing : s.block.capActive with
  | true => exact .inr ⟨_, whenOpen_of_capturing k capturing⟩
  | false =>
    rw [whenOpen, whenChannelFree_of_free _ capturing]
    exact whenNotAbandoned_cases k s

theorem whenLive_cases : whenLive k s = k s ∨ ∃ r, whenLive k s = .next (turnedAway s r) := by
  cases capturing : s.block.capActive with
  | true => exact .inr ⟨_, whenLive_of_capturing k capturing⟩
  | false =>
    cases session : s.block.connected with
    | false => exact .inr ⟨_, whenLive_of_no_session k capturing session⟩
    | true =>
      rw [whenLive, whenChannelFree_of_free _ capturing, if_pos session]
      exact whenNotAbandoned_cases k s

theorem whenStreaming_cases :
    (s.block.capActive = true ∧ whenStreaming k s = k s) ∨ ∃ r, whenStreaming k s = .next (turnedAway s r) := by
  cases capturing : s.block.capActive with
  | false => exact .inr ⟨_, whenStreaming_of_no_capture k capturing⟩
  | true =>
    by_cases old : s.host.channel = .oldStream
    · exact .inr ⟨_, whenStreaming_of_old k capturing old⟩
    · exact .inl ⟨rfl, whenStreaming_of_own k capturing old⟩

end

theorem startWrite_issued {bytes : List Byte} {s t : State} (h : startWrite bytes s = .next t) : t.issued = s.issued := by
  cases bytes <;> cases h <;> rfl

theorem startRead_issued {count : Nat} {s t : State} (h : startRead count s = .next t) : t.issued = s.issued := by
  unfold startRead at h
  split at h
  · cases h
  · cases count <;> cases h <;> rfl

/-- The beginning of a procedure issues nothing, but for a close and a read of the stream. -/
theorem startOp_issued {o : HostOp} {s t : State} (h : startOp o s = .next t) :
    t.issued = s.issued ∨ (o = .close ∧ t.issued = s.issued ++ [0x90000#20]) ∨
      (o = .captureRead ∧ s.block.capActive = true ∧
        (t.issued = s.issued ++ [0x90000#20] ∨
          ∃ b : Byte, t.issued = s.issued ++ [0x800#12 ++ b] ∧ .byte b ∈ s.host.rx)) := by
  cases o with
  | connect =>
    obtain e | ⟨r, e⟩ := whenOpen_cases (fun s => .next (setTask (.connect probeBytes) s)) s <;>
      obtain rfl := Host.Outcome.next.inj (e.symm.trans h)
    · exact .inl rfl
    · exact .inl rfl
  | write bytes =>
    obtain e | ⟨r, e⟩ := whenLive_cases (startWrite bytes) s
    · exact .inl (startWrite_issued (e.symm.trans h))
    · obtain rfl := Host.Outcome.next.inj (e.symm.trans h)
      exact .inl rfl
  | read count =>
    obtain e | ⟨r, e⟩ := whenLive_cases (startRead count) s
    · exact .inl (startRead_issued (e.symm.trans h))
    · obtain rfl := Host.Outcome.next.inj (e.symm.trans h)
      exact .inl rfl
  | captureRead =>
    obtain ⟨capturing, e⟩ | ⟨r, e⟩ := whenStreaming_cases (fun s => readExact 1 .captureByte (beginStream s)) s <;>
      obtain rfl := Host.Outcome.next.inj (e.symm.trans h)
    · obtain ⟨words, issued, rfl | rfl | ⟨bytes, rest, done, reply⟩⟩ :=
        resumeRead_issued ⟨1, .captureByte⟩ (reading ⟨1, .captureByte⟩ (beginStream s))
      · exact .inl (issued.trans (List.append_nil _))
      · exact .inr (.inr ⟨rfl, capturing, .inl issued⟩)
      · obtain ⟨⟨⟩, -⟩ | ⟨_, ⟨⟩, -⟩ | ⟨⟨⟩, -⟩ | ⟨b, more, -, rfl, rfl⟩ := reply
        exact .inr (.inr ⟨rfl, capturing, .inr ⟨b, issued, mem_of_takeReply_done done b List.mem_cons_self⟩⟩)
    · exact .inl rfl
  | close =>
    obtain rfl := Host.Outcome.next.inj h
    exact .inr (.inl ⟨rfl, rfl⟩)

/-- Which commands read for the purposes that issue requests. -/
theorem replyFor_purpose {i : Instr} {a : Await} (h : replyFor i = some a) :
    (a.purpose = .status → i = .hostStatus) ∧
    (∀ data, a.purpose = .writeAck data → ∃ n, i = .hostWriteChunk n data) ∧
    (a.purpose = .readData → ∃ n, i = .hostReadChunk n ∧ a.count = n.toNat + 1) ∧
    a.purpose ≠ .captureByte := by
  cases i with
  | hostStatus => cases h; exact ⟨fun _ => rfl, nofun, nofun, nofun⟩
  | hostWriteChunk n data => cases h; exact ⟨nofun, fun _ e => by cases e; exact ⟨n, rfl⟩, nofun, nofun⟩
  | hostReadChunk n => cases h; exact ⟨nofun, nofun, fun _ => ⟨n, rfl, rfl⟩, nofun⟩
  | hostScan | hostEchoProbe _ | hostI2cStart _ _ | hostBusReset => cases h; exact ⟨nofun, nofun, nofun, nofun⟩
  | _ => cases h

/-- Settles O41: by what a command, a step that goes on with its read, and the beginning of a procedure can do, and by the
requests of a whole reply. -/
theorem onlyReadAndWriteDataEntersTheCrc : Obligations.OnlyReadAndWriteDataEntersTheCrc := by
  refine ⟨fun i s t hi h => ?_, fun s t a hw h => ?_, fun s t o xs hq hx h => ?_⟩
  · obtain ⟨r, e⟩ | e | ⟨capture, e⟩ | ⟨-, e⟩ | ⟨a, hr, -, -, e⟩ := exec_bridgeCommand_cases hi s <;>
      obtain rfl := Host.Outcome.next.inj (e.symm.trans h)
    · exact issues_nothing rfl
    · exact ⟨_, rfl, .inr (.inl rfl)⟩
    · exact ⟨_, rfl, .inr (.inr (.inl ⟨capture, rfl⟩))⟩
    · exact issues_nothing rfl
    · obtain ⟨words, issued, which⟩ := resumeRead_issued a (reading a (sending i s))
      refine ⟨words, issued, which.imp_right (Or.imp_right ?_)⟩
      rintro ⟨bytes, rest, done, reply⟩
      obtain ⟨status, write, read, capture⟩ := replyFor_purpose hr
      obtain ⟨hp, inside, seed⟩ | ⟨data, hp, update⟩ | ⟨hp, update⟩ | ⟨b, more, hp, -⟩ := reply
      · exact .inr (.inl ⟨status hp, inside, seed⟩)
      · obtain ⟨n, hn⟩ := write data hp
        exact .inr (.inr (.inl ⟨n, data, hn, update⟩))
      · obtain ⟨n, hn, count⟩ := read hp
        have taken : takeReply s.params.timeout.isSome (n.toNat + 1) s.host.rx = .done bytes rest := count ▸ done
        exact .inr (.inr (.inr ⟨n, bytes, hn, takeReply_done_length taken, ⟨rest, taken⟩, update⟩))
      · exact absurd hp capture
  · rw [step_of_waiting hw] at h
    obtain rfl := Host.Outcome.next.inj h
    obtain e | ⟨rest, -, e⟩ | ⟨x, rest, -, -, e⟩ := waitStep_cases a s <;> rw [e]
    · obtain ⟨words, issued, which⟩ := resumeRead_issued a s
      refine ⟨words, issued, which.imp_right (Or.imp_right ?_)⟩
      rintro ⟨bytes, rest, done, reply⟩
      rw [resumeRead_of_done done]
      exact ⟨bytes, rest, done, replyArrived_awaiting _ _ _, replyArrived_rx _ _ _, reply⟩
    · exact issues_nothing rfl
    · exact ⟨_, rfl, .inr (.inl rfl)⟩
  · rw [step_of_opInput hq hx] at h
    obtain ⟨-, issued, -⟩ := hq
    simpa only [issued, List.nil_append] using startOp_issued h

end Sys2Proof.Claims
end

section
/-! The ends of a session, the capture stream, a scan, and the two requests that no state refuses (41_session_boundary.md R100
to R102, R106, R112). -/

namespace Sys2Proof.Claims

open Sys2Proof.Machine

/-! ## DISCONNECT and ERR_READ (R101, R102) -/

theorem decodeRequest_disconnect (x : Word) :
    decodeRequest (0x9#4 ++ x) = if x = 0#16 then .ok .disconnect else .error (.mustBeZero (0x9#4 ++ x)) := by
  change decodeRequest (requestWord opDisconnect x) = if _ then _ else .error (.mustBeZero (requestWord opDisconnect x))
  by_cases h : x = 0#16 <;> simp [decodeRequest, opDisconnect, operandNone, h]

theorem decodeRequest_errRead (x : Word) :
    decodeRequest (0xA#4 ++ x) = if x = 0#16 then .ok .errRead else .error (.mustBeZero (0xA#4 ++ x)) := by
  change decodeRequest (requestWord opErrRead x) = if _ then _ else .error (.mustBeZero (requestWord opErrRead x))
  by_cases h : x = 0#16 <;> simp [decodeRequest, opErrRead, operandNone, h]

theorem exec_disconnect_eq (s : State) : exec .disconnect s = .next (answered s (disconnected s.block) 0x0000#16 []) := rfl

/-- Without a session the invariants leave only `err_flags` free, so there is nothing to clear. -/
theorem disconnected_of_inv {b : Block} (inv : b.Inv) (closed : b.connected = false) : disconnected b = b := by
  have free : b.capActive = false := by
    cases h : b.capActive with
    | false => rfl
    | true => cases closed.symm.trans (inv.capture_needs_session h)
  obtain ⟨pending, value, count⟩ := inv.decoder_clear_outside_capture free
  have crc := inv.crc_zero_without_session closed
  cases b
  simp_all [disconnected]

/-- Settles O17: the request has its one effect in every state, which is none on a block without a session. -/
theorem disconnectClearsAllButErrFlags : Obligations.DisconnectClearsAllButErrFlags :=
  ⟨decodeRequest_disconnect, fun s => ⟨exec_disconnect_eq s, disconnected_of_inv⟩⟩

theorem zeroExtend_eq_zero_append (b : Byte) : b.zeroExtend 16 = 0x00#8 ++ b :=
  BitVec.setWidth_eq_append (by decide)

/-- Settles O18: the request answers the register in every state. -/
theorem errReadReturnsTheStickyRegister : Obligations.ErrReadReturnsTheStickyRegister := by
  refine ⟨decodeRequest_errRead, fun s => ?_⟩
  rw [← zeroExtend_eq_zero_append]
  rfl

/-! ## The end of a session (R100) -/

/-- The close or the exit that is next is taken: by a quiet driver, or by a read that it ends. -/
theorem step_of_sessionEnd {s : State} {x : Input} {xs : List Input} (hi : s.issued = []) (hx : s.inputs = x :: xs)
    (isEnd : x = .op .close ∨ x = .exit)
    (taken : (s.host.awaiting = none ∧ s.host.task = .idle) ∨
      (∃ a bytes, s.host.awaiting = some a ∧ s.host.rx = delivered bytes [] ∧ bytes.length < a.count ∧
        (x = .exit ∨ a.purpose = .captureByte))) :
    step s = .next (tearDown .closed { s with inputs := xs }) := by
  obtain ⟨ha, ht⟩ | ⟨a, bytes, hw, hrx, hlen, allowed⟩ := taken
  · rw [step, fetch_of_input ⟨ha, hi, ht⟩ hx]
    obtain rfl | rfl := isEnd <;> rfl
  · have short := replyOf_short hrx hlen
    rw [step_of_waiting hw]
    obtain rfl | rfl := isEnd
    · rw [waitStep_of_cancel short (allowed.resolve_left nofun) hx]
    · rw [waitStep_of_exit short hx]

theorem tearDown_issued (r : HostResult) (s : State) : (tearDown r s).issued = s.issued ++ [0x90000#20] := rfl

/-- Settles O58: the tear-down is one step, and the DISCONNECT that it issues the next. -/
theorem cancelDiscardsThePartialGroup : Obligations.CancelDiscardsThePartialGroup := by
  intro s x xs hi hx isEnd taken
  have issued : (tearDown .closed { s with inputs := xs }).issued = 0x90000#20 :: s.issued := by
    rw [tearDown_issued, hi]
    rfl
  have disconnects := step_of_issued rfl issued (show decodeRequest 0x90000#20 = .ok .disconnect by decide)
  rw [run_of_step (step_of_sessionEnd hi hx isEnd taken)]
  exact run_of_step (disconnects.trans (exec_disconnect_eq _)) 0

/-! ## The capture stream (R112) -/

/-- In a capture of its own the driver reads one byte of the stream. -/
theorem step_of_captureRead {s : State} {xs : List Input} (hq : s.Quiet) (capturing : s.block.capActive = true)
    (own : s.host.channel ≠ .oldStream) (hx : s.inputs = .op .captureRead :: xs) :
    step s = .next (resumeRead ⟨1, .captureByte⟩ (reading ⟨1, .captureByte⟩ (beginStream { s with inputs := xs }))) := by
  rw [step_of_opInput hq hx, startOp, whenStreaming_of_own (s := { s with inputs := xs }) _ capturing own]
  rfl

/-- Settles O44: the byte that is there is taken at once, and one that comes later by the step that goes on with the read. -/
theorem captureCommandEntersCapture : Obligations.CaptureCommandEntersCapture := by
  refine ⟨fun s live => exec_of_up rfl (live.admitted _) live.up, fun s b rest xs hq capturing own hx hrx => ?_,
    fun s xs hq capturing own hx hrx => ?_, fun s b rest hw hrx => ?_⟩
  · refine ⟨_, ?_, rfl, step_of_issued hq.1 rfl (decodeRequest_of_encode (encode_capByte b))⟩
    have done : replyOf ⟨1, .captureByte⟩ (reading ⟨1, .captureByte⟩ (beginStream { s with inputs := xs }))
        = .done [b] rest := replyOf_done (bytes := [b]) hrx rfl
    rw [step_of_captureRead hq capturing own hx, resumeRead_of_done done, replyArrived, oneByte, issue, capByte_word]
    obtain ⟨awaiting, issued, -⟩ := hq
    simp [endRead, reading, beginStream, issued, awaiting]
  · have short : replyOf ⟨1, .captureByte⟩ (reading ⟨1, .captureByte⟩ (beginStream { s with inputs := xs })) = .short :=
      replyOf_short (bytes := []) hrx Nat.one_pos
    rw [step_of_captureRead hq capturing own hx, resumeRead_of_short short]
    rfl
  · rw [step_of_done hw (replyOf_done (bytes := [b]) hrx rfl), endRead_eq_exchanged, replyArrived, oneByte, issue_exchanged,
      capByte_word]
    rfl

/-! ## A scan (R106) -/

theorem scanPresence_of_byte {bytes : List Byte} {a : BitVec 7} {b : Byte} (lo : 8 ≤ a.toNat)
    (hb : bytes[a.toNat - 8]? = some b) :
    scanPresence (scanFlags bytes) a = if b = 0x31#8 then .present else .absent := by
  have flag : (scanFlags bytes)[a.toNat - 8]? = some (b == scanPresent) := by
    rw [scanFlags, List.getElem?_map, hb, Option.map_some]
  simp only [scanPresence, scanFirst, Nat.not_lt.mpr lo, if_false, flag]
  by_cases present : b = 0x31#8
  · rw [present]
    rfl
  · rw [beq_false_of_ne (b := scanPresent) present, if_neg present]

theorem scanPresence_of_outside {bytes : List Byte} (hlen : bytes.length = 112) {a : BitVec 7}
    (out : a.toNat < 8 ∨ 119 < a.toNat) : scanPresence (scanFlags bytes) a = .notScanned := by
  obtain low | high := out
  · exact if_pos low
  · have past : (scanFlags bytes)[a.toNat - 8]? = none := by
      rw [List.getElem?_eq_none_iff, scanFlags, List.length_map]
      omega
    simp only [scanPresence, scanFirst, past, ite_self]

/-- Settles O47: the flag of an address is that of its byte. -/
theorem scanMapsAddresses : Obligations.ScanMapsAddresses := by
  intro s bytes rest live hlen hrx
  refine ⟨scanFlags bytes, ?_, fun a => ⟨fun b lo hb => scanPresence_of_byte lo hb, scanPresence_of_outside hlen⟩⟩
  rw [exec_of_done rfl (live.admitted _) live.up rfl (replyOf_done hrx hlen), replyArrived, report_exchanged]
  rfl

end Sys2Proof.Claims
end

section
/-! The host's procedures (41_session_boundary.md R104, R110, R111): one command of a procedure and its reply as a step, and
the statement about a whole write. -/

namespace Sys2Proof.Claims

open Sys2Proof.Machine

/-! ## One command of a procedure -/

theorem run_add {j : Nat} {s t : State} (h : Host.Core.run core j s = .next t) (k : Nat) :
    Host.Core.run core (j + k) s = Host.Core.run core k t := by
  induction j generalizing s with
  | zero =>
    cases h
    rw [Nat.zero_add]
  | succ j ih =>
    rw [Nat.succ_add]
    cases hs : step s with
    | next u =>
      rw [run_of_step hs] at h ⊢
      exact ih h
    | fault r => cases r
    | refused r => simp [Host.Core.run, show core.step s = .refused r from hs] at h

/-- A step sends the next command of the procedure in progress, if it has one. -/
structure Ready (s : State) : Prop where
  awaiting : s.host.awaiting = none
  issued : s.issued = []
  free : s.block.capActive = false
  clear : s.host.channel = .clear
  up : s.host.linkDown = false

theorem Live.ready {s : State} (live : Live s) (hq : s.Quiet) : Ready s := by
  obtain ⟨-, free, clear, up⟩ := live
  obtain ⟨awaiting, issued, -⟩ := hq
  exact ⟨awaiting, issued, free, clear, up⟩

theorem Ready.begin {s : State} (r : Ready s) (xs : List Input) (task : Task) :
    Ready (setTask task { s with inputs := xs }) :=
  ⟨r.awaiting, r.issued, r.free, r.clear, r.up⟩

/-- After an exchange that issued nothing the driver is ready again. -/
theorem Ready.exchanged {s : State} (r : Ready s) (sent : List Byte) (rest : List Delivery) (task : Task)
    (results : List HostResult) : Ready (exchanged s sent rest task results []) :=
  ⟨rfl, (List.append_nil _).trans r.issued, r.free, r.clear, r.up⟩

section Command
variable {s : State} {i : Instr} {task : Task} {a : Await} (r : Ready s)
  (h : nextCommand s = some (i, setTask task s)) (hi : onBlock i = false) (may : mayBeSent i (setTask task s))
  (hr : replyFor i = some a)
include r h hi may hr

theorem step_of_command_done {bytes : List Byte} {rest : List Delivery} (done : replyOf a s = .done bytes rest) :
    step s = .next (replyArrived a.purpose bytes (exchanged s (encodeCommand i) rest task [] [])) := by
  rw [step_of_command r.awaiting r.issued h]
  exact exec_of_done (s := setTask task s) hi ⟨r.free, r.clear, may⟩ r.up hr done

theorem step_of_command_failed {rest : List Delivery} (failed : replyOf a s = .failed rest) :
    step s = .next (readFailed a.purpose (exchanged s (encodeCommand i) rest task [] [])) := by
  rw [step_of_command r.awaiting r.issued h]
  exact exec_of_failed (s := setTask task s) hi ⟨r.free, r.clear, may⟩ r.up hr failed

end Command

theorem delivered_append (xs ys : List Byte) (rest : List Delivery) :
    delivered (xs ++ ys) rest = delivered xs (delivered ys rest) := by
  simp [delivered]

/-! ## Chunks (30_encoding.md R64) -/

theorem lengthFieldOf_toNat {n : Nat} (h : n ≤ 64) : (lengthFieldOf n).toNat = n - 1 := by
  rw [lengthFieldOf, BitVec.toNat_ofNat, Nat.mod_eq_of_lt (by omega)]

theorem chunkLength_lengthFieldOf {n : Nat} (pos : 0 < n) (h : n ≤ 64) : chunkLength (lengthFieldOf n) = n := by
  rw [chunkLength, lengthFieldOf_toNat h, Nat.sub_add_cancel pos]

theorem zeroExtend_lengthFieldOf {n : Nat} (h : n ≤ 64) :
    (lengthFieldOf n).zeroExtend 8 = BitVec.ofNat 8 (n - 1) := by
  apply BitVec.eq_of_toNat_eq
  rw [BitVec.toNat_setWidth, lengthFieldOf_toNat h, BitVec.toNat_ofNat]

theorem writeFrames_succ (k : Nat) (bytes : List Byte) :
    writeFrames (k + 1) bytes
      = writeChunkByte (lengthFieldOf (bytes.take 64).length) :: bytes.take 64 ++ writeFrames k (bytes.drop 64) := by
  have bound : min 64 bytes.length ≤ 64 := Nat.min_le_left _ _
  rw [writeFrames, writeChunkByte, List.length_take, zeroExtend_lengthFieldOf bound]
  rfl

theorem writeFrames_succ_eq_append (k : Nat) (bytes : List Byte) :
    writeFrames (k + 1) bytes = writeFrames 1 bytes ++ writeFrames k (bytes.drop 64) := by
  rw [writeFrames_succ, writeFrames_succ 0, writeFrames, List.append_nil]

theorem readCommands_succ (k count : Nat) :
    readCommands (k + 1) count = readChunkByte (lengthFieldOf (min count 64)) :: readCommands k (count - 64) := by
  have bound : min count 64 ≤ 64 := Nat.min_le_right _ _
  rw [readCommands, readChunkByte, zeroExtend_lengthFieldOf bound]
  rfl

theorem readCommands_succ_eq_append (k count : Nat) :
    readCommands (k + 1) count = readCommands 1 count ++ readCommands k (count - 64) := by
  rw [readCommands_succ, readCommands_succ 0, readCommands, List.cons_append, List.nil_append]

/-! ## A write (R110) -/

theorem nextCommand_of_write {s : State} {left sent : List Byte} {allAck : Bool} (ht : s.host.task = .write left sent allAck)
    (more : left ≠ []) :
    nextCommand s = some (.hostWriteChunk (lengthFieldOf (left.take 64).length) (left.take 64),
      setTask (.write (left.drop 64) sent allAck) s) := by
  obtain ⟨b, left, rfl⟩ := List.exists_cons_of_ne_nil more
  simp only [nextCommand, ht, chunkMax]

section Chunk
variable {s : State} {left sent : List Byte} {allAck : Bool} {a : Byte} {rest : List Delivery}
  (r : Ready s) (session : s.block.connected = true) (ht : s.host.task = .write left sent allAck) (more : left ≠ [])
  (hrx : s.host.rx = .byte a :: rest)
include r session ht more hrx

/-- A chunk goes out and its ack byte is taken. -/
theorem step_of_writeChunk :
    step s = .next (writeAckArrived (left.take 64) a
      (exchanged s (writeFrames 1 left) rest (.write (left.drop 64) sent allAck) [] [])) := by
  have done : replyOf ⟨1, .writeAck (left.take 64)⟩ s = .done [a] rest := replyOf_done (bytes := [a]) hrx rfl
  rw [writeFrames_succ, writeFrames, List.append_nil]
  exact step_of_command_done r (nextCommand_of_write ht more) rfl (fun _ => .inl session) rfl done

/-- A chunk with more to send after it. -/
theorem step_of_writeChunk_more (others : left.drop 64 ≠ []) :
    step s = .next (exchanged s (writeFrames 1 left) rest
      (.write (left.drop 64) (sent ++ left.take 64) (allAck && writeAcked s.params.writeAckBit a)) [] []) := by
  rw [step_of_writeChunk r session ht more hrx,
    writeAckArrived_more (s := exchanged s _ rest (.write (left.drop 64) sent allAck) [] []) _ a others]
  rfl

/-- The last chunk ends the write. -/
theorem step_of_writeChunk_last (last : left.drop 64 = []) :
    step s = .next (exchanged s (writeFrames 1 left) rest .idle
      [.written (if (allAck && writeAcked s.params.writeAckBit a) = true then .ack else .nak)]
      (if (allAck && writeAcked s.params.writeAckBit a) = true ∨ s.params.writeNakCrc = .always
        then updateWords (sent ++ left) else [])) := by
  rw [step_of_writeChunk r session ht more hrx,
    writeAckArrived_last (s := exchanged s _ rest (.write (left.drop 64) sent allAck) [] []) _ a last,
    List.take_of_length_le (List.drop_eq_nil_iff.mp last), finishWrite_exchanged]
  rfl

end Chunk

/-- The chunks of a write, one a step, up to its result. -/
theorem run_write {acks : List Byte} {s : State} {left sent : List Byte} {allAck : Bool} {rest : List Delivery}
    (r : Ready s) (session : s.block.connected = true) (ht : s.host.task = .write left sent allAck) (more : left ≠ [])
    (hlen : acks.length = (left.length + 63) / 64) (hrx : s.host.rx = delivered acks rest) :
    Host.Core.run core acks.length s
      = .next (exchanged s (writeFrames acks.length left) rest .idle
          [.written (if (allAck && acks.all (writeAcked s.params.writeAckBit)) = true then .ack else .nak)]
          (if (allAck && acks.all (writeAcked s.params.writeAckBit)) = true ∨ s.params.writeNakCrc = .always
            then updateWords (sent ++ left) else [])) := by
  induction acks generalizing s left sent allAck with
  | nil =>
    have := List.length_pos_of_ne_nil more
    rw [List.length_nil] at hlen
    omega
  | cons a acks ih =>
    rw [List.length_cons] at hlen
    by_cases last : left.drop 64 = []
    · have short := List.drop_eq_nil_iff.mp last
      obtain rfl : acks = [] := List.eq_nil_of_length_eq_zero (by omega)
      rw [List.all_cons, List.all_nil, Bool.and_true]
      exact run_of_step (step_of_writeChunk_last r session ht more hrx last) 0
    · have chunk := step_of_writeChunk_more r session ht more hrx last
      have rest_length : acks.length = ((left.drop 64).length + 63) / 64 := by
        rw [List.length_drop]
        omega
      have others := ih (sent := sent ++ left.take 64) (allAck := allAck && writeAcked s.params.writeAckBit a)
        (r.exchanged (writeFrames 1 left) (delivered acks rest) _ []) session rfl last rest_length rfl
      rw [exchanged_exchanged, List.append_assoc, List.take_append_drop, Bool.and_assoc,
        ← writeFrames_succ_eq_append] at others
      rw [List.length_cons, run_of_step chunk, List.all_cons]
      exact others

/-- A procedure that needs a session begins. -/
theorem step_of_liveOp {s : State} {o : HostOp} {xs : List Input} {k : State → Result} (hq : s.Quiet) (live : Live s)
    (hx : s.inputs = .op o :: xs) (ho : ∀ t, startOp o t = whenLive k t) : step s = k { s with inputs := xs } := by
  obtain ⟨session, free, clear, -⟩ := live
  rw [step_of_opInput hq hx, ho]
  exact whenLive_of_session (s := { s with inputs := xs }) k free session clear

/-- Settles O52: an empty write is done when it begins, any other by its chunks. -/
theorem writeProcedureSendsEveryChunk : Obligations.WriteProcedureSendsEveryChunk := by
  intro s bytes acks rest xs hq live hx hlen hrx
  have start := step_of_liveOp hq live hx (k := startWrite bytes) fun _ => rfl
  have ready := live.ready hq
  rw [Nat.add_comm]
  cases bytes with
  | nil =>
    obtain rfl : acks = [] := List.eq_nil_of_length_eq_zero hlen
    obtain rfl : s.host.rx = rest := hrx
    rw [startWrite, finish_eq_exchanged (s := { s with inputs := xs }) _ ready.awaiting] at start
    exact run_of_step start 0
  | cons b left =>
    obtain ⟨session, -⟩ := live
    rw [run_of_step start]
    exact run_write (ready.begin xs (.write (b :: left) [] true)) session rfl (List.cons_ne_nil b left) hlen hrx

end Sys2Proof.Claims
end

section
/-! A whole read (41_session_boundary.md R111): its chunks, each with the requests that feed its bytes to the CRC, and the
statement about all of them. -/

namespace Sys2Proof.Claims

open Sys2Proof.Machine

/-! ## Bytes that entered the CRC -/

/-- These bytes entered the CRC, each by an answered request (40_checksum.md R84, R88). -/
def fed (bytes : List Byte) (s : State) : State :=
  { s with
    block := { s.block with crc := crcUpdate s.block.crc bytes }
    responses := s.responses ++ List.replicate bytes.length ⟨0#3, 0x0000#16, []⟩ }

theorem fed_nil (s : State) : fed [] s = s := by
  simp [fed, crcUpdate]

theorem fed_fed (xs ys : List Byte) (s : State) : fed ys (fed xs s) = fed (xs ++ ys) s := by
  simp [fed, crcUpdate_append, List.replicate_append_replicate]

theorem exchanged_fed (bytes : List Byte) (s : State) (sent : List Byte) (rest : List Delivery) (task : Task)
    (results : List HostResult) (words : List RequestWord) :
    exchanged (fed bytes s) sent rest task results words = fed bytes (exchanged s sent rest task results words) := rfl

theorem Ready.fed {s : State} (r : Ready s) (bytes : List Byte) : Ready (fed bytes s) :=
  ⟨r.awaiting, r.issued, r.free, r.clear, r.up⟩

/-- The requests that an exchange issued are answered before the procedure goes on. -/
theorem run_exchanged_updateWords {s : State} (r : Ready s) (session : s.block.connected = true) (bytes sent : List Byte)
    (rest : List Delivery) (task : Task) (results : List HostResult) :
    Host.Core.run core bytes.length (exchanged s sent rest task results (updateWords bytes))
      = .next (fed bytes (exchanged s sent rest task results [])) := by
  have h := run_updateWords bytes (s := exchanged s sent rest task results []) rfl session r.free
  have words : updateWords bytes ++ (exchanged s sent rest task results []).issued = s.issued ++ updateWords bytes := by
    rw [(r.exchanged sent rest task results).issued, r.issued, List.append_nil, List.nil_append]
  rw [words] at h
  exact h

/-! ## Chunks of a read -/

theorem nextCommand_of_read {s : State} {left : Nat} {got : List Byte} (ht : s.host.task = .read left got)
    (more : left ≠ 0) :
    nextCommand s = some (.hostReadChunk (lengthFieldOf (min left 64)), setTask (.read (left - 64) got) s) := by
  obtain ⟨n, rfl⟩ := Nat.exists_eq_succ_of_ne_zero more
  have left_after : n + 1 - min (n + 1) 64 = n + 1 - 64 := by omega
  simp only [nextCommand, ht, chunkMax, left_after]

section Chunk
variable {s : State} {bytes got : List Byte} {rest : List Delivery} (r : Ready s) (session : s.block.connected = true)
  (ht : s.host.task = .read bytes.length got) (more : bytes ≠ []) (hrx : s.host.rx = delivered bytes rest)
include r session ht more hrx

/-- A chunk's command goes out and its bytes are taken. -/
theorem step_of_readChunk :
    step s = .next (readDataArrived (bytes.take 64)
      (exchanged s (readCommands 1 bytes.length) (delivered (bytes.drop 64) rest)
        (.read (bytes.drop 64).length got) [] [])) := by
  have pos := List.length_pos_of_ne_nil more
  have count : chunkLength (lengthFieldOf (min bytes.length 64)) = min bytes.length 64 :=
    chunkLength_lengthFieldOf (by omega) (by omega)
  have done : replyOf ⟨chunkLength (lengthFieldOf (min bytes.length 64)), .readData⟩ s
      = .done (bytes.take 64) (delivered (bytes.drop 64) rest) := by
    refine replyOf_done ?_ ?_
    · rw [← delivered_append, List.take_append_drop, hrx]
    · rw [count, List.length_take, Nat.min_comm]
  rw [readCommands_succ, readCommands, List.length_drop]
  exact step_of_command_done r (nextCommand_of_read ht pos.ne') rfl (fun _ => .inl session) rfl done

/-- A chunk with more to read after it, and the requests for its bytes. -/
theorem run_readChunk_more (others : bytes.drop 64 ≠ []) :
    Host.Core.run core (1 + (bytes.take 64).length) s
      = .next (fed (bytes.take 64) (exchanged s (readCommands 1 bytes.length) (delivered (bytes.drop 64) rest)
          (.read (bytes.drop 64).length (got ++ bytes.take 64)) [] [])) := by
  have chunk := step_of_readChunk r session ht more hrx
  rw [readDataArrived_more (s := exchanged s _ _ (.read (bytes.drop 64).length got) [] []) _
    (List.length_pos_of_ne_nil others).ne', setTask_exchanged, issueCrcUpdate_exchanged] at chunk
  rw [Nat.add_comm, run_of_step chunk]
  exact run_exchanged_updateWords r session _ _ _ _ _

/-- The last chunk ends the read, and the requests for its bytes follow. -/
theorem run_readChunk_last (last : bytes.drop 64 = []) :
    Host.Core.run core (1 + bytes.length) s
      = .next (fed bytes (exchanged s (readCommands 1 bytes.length) rest .idle [.data (got ++ bytes)] [])) := by
  have chunk := step_of_readChunk r session ht more hrx
  rw [last, List.take_of_length_le (List.drop_eq_nil_iff.mp last),
    readDataArrived_last (s := exchanged s _ _ (.read ([] : List Byte).length got) [] []) _ rfl, finish_exchanged,
    issueCrcUpdate_exchanged] at chunk
  rw [Nat.add_comm, run_of_step chunk]
  exact run_exchanged_updateWords r session _ _ _ _ _

end Chunk

/-- The chunks of a read, each followed by the requests for its bytes, up to its result. -/
theorem run_read {k : Nat} {s : State} {bytes got : List Byte} {rest : List Delivery} (r : Ready s)
    (session : s.block.connected = true) (ht : s.host.task = .read bytes.length got) (more : bytes ≠ [])
    (hrx : s.host.rx = delivered bytes rest) (hk : k = (bytes.length + 63) / 64) :
    Host.Core.run core (k + bytes.length) s
      = .next (fed bytes (exchanged s (readCommands k bytes.length) rest .idle [.data (got ++ bytes)] [])) := by
  induction k generalizing s bytes got with
  | zero =>
    have := List.length_pos_of_ne_nil more
    omega
  | succ k ih =>
    by_cases last : bytes.drop 64 = []
    · have short := List.drop_eq_nil_iff.mp last
      obtain rfl : k = 0 := by omega
      exact run_readChunk_last r session ht more hrx last
    · have chunk := run_readChunk_more r session ht more hrx last
      have drop_length : (bytes.drop 64).length = bytes.length - 64 := List.length_drop
      have others := ih (got := got ++ bytes.take 64)
        ((r.exchanged (readCommands 1 bytes.length) (delivered (bytes.drop 64) rest) _ []).fed (bytes.take 64)) session rfl
        last rfl (by omega)
      rw [exchanged_fed, exchanged_exchanged, fed_fed, List.append_assoc, List.take_append_drop, drop_length,
        ← readCommands_succ_eq_append] at others
      have steps : k + 1 + bytes.length = 1 + (bytes.take 64).length + (k + (bytes.drop 64).length) := by
        rw [List.length_take, drop_length]
        omega
      rw [steps, run_add chunk, drop_length]
      exact others

/-! ## A read begins -/

theorem startRead_zero (s : State) : startRead 0 s = .next (finish (.data []) s) := by
  unfold startRead
  exact if_neg fun ⟨_, long⟩ => Nat.not_lt_zero _ long

theorem startRead_of_allowed {count : Nat} {s : State} (pos : count ≠ 0)
    (allowed : s.params.readChunk = .remaining ∨ count ≤ 64) : startRead count s = .next (setTask (.read count []) s) := by
  have taken : ¬ (s.params.readChunk = .reference ∧ chunkMax < count) := by
    rintro ⟨reference, long⟩
    obtain remaining | short := allowed
    · cases remaining.symm.trans reference
    · exact Nat.not_lt.mpr short long
  obtain ⟨n, rfl⟩ := Nat.exists_eq_succ_of_ne_zero pos
  unfold startRead
  exact if_neg taken

theorem startRead_of_refused {count : Nat} {s : State} (reference : s.params.readChunk = .reference)
    (long : 64 < count) : startRead count s = .refused (.referenceReadChunking count) := by
  unfold startRead
  exact if_pos ⟨reference, long⟩

/-- Settles O53: an empty read is done when it begins, any other by its chunks. -/
theorem readProcedureReadsEveryChunk : Obligations.ReadProcedureReadsEveryChunk := by
  intro s bytes rest xs hq live hx hrx
  have start := step_of_liveOp hq live hx (k := startRead bytes.length) fun _ => rfl
  refine ⟨fun allowed => ?_, fun reference long => ?_⟩
  · have ready := live.ready hq
    rw [Nat.add_assoc, Nat.add_comm]
    by_cases empty : bytes = []
    · subst empty
      obtain rfl : s.host.rx = rest := hrx
      rw [List.length_nil, startRead_zero, finish_eq_exchanged (s := { s with inputs := xs }) _ ready.awaiting] at start
      exact (run_of_step start 0).trans (congrArg _ (fed_nil _).symm)
    · have pos := mt List.length_eq_zero_iff.mp empty
      rw [startRead_of_allowed (s := { s with inputs := xs }) pos allowed] at start
      obtain ⟨session, -⟩ := live
      rw [run_of_step start]
      exact run_read (ready.begin xs (.read bytes.length [])) session rfl empty hrx rfl
  · rw [start, startRead_of_refused (s := { s with inputs := xs }) reference long]

end Sys2Proof.Claims
end

section
/-! A whole connect (41_session_boundary.md R104): its probes, its status query, and the statement about its three ends. -/

namespace Sys2Proof.Claims

open Sys2Proof.Machine

theorem step_of_startConnect {s : State} {xs : List Input} (hq : s.Quiet) (free : s.block.capActive = false)
    (clear : s.host.channel = .clear) (hx : s.inputs = .op .connect :: xs) :
    step s = .next (setTask (.connect probeBytes) { s with inputs := xs }) := by
  rw [step_of_opInput hq hx]
  exact whenOpen_of_open (s := { s with inputs := xs }) _ free clear

/-! ## The probes -/

theorem nextCommand_of_probe {s : State} {test : Byte} {after : List Byte} (ht : s.host.task = .connect (test :: after)) :
    nextCommand s = some (.hostEchoProbe test, setTask (.connect after) s) := by
  simp only [nextCommand, ht]

/-- The bytes of the probes with these test bytes (30_encoding.md R67). -/
def probesSent (tests : List Byte) : List Byte := tests.flatMap (fun t => [0x65#8, t])

/-- The echo of this test byte is wrong or its read fails, and these deliveries are left. -/
def EchoFails (test : Byte) (rx rest : List Delivery) : Prop :=
  (∃ e, e ≠ test ∧ rx = .byte e :: rest) ∨ rx = .failure :: rest

section Probe
variable {s : State} {test : Byte} {after : List Byte} {rest : List Delivery} (r : Ready s)
  (ht : s.host.task = .connect (test :: after))
include r ht

theorem step_of_rightEcho (hrx : s.host.rx = .byte test :: rest) :
    step s = .next (exchanged s [0x65#8, test] rest (.connect after) [] []) := by
  have done : replyOf ⟨1, .echo test⟩ s = .done [test] rest := replyOf_done (bytes := [test]) hrx rfl
  rw [step_of_command_done r (nextCommand_of_probe ht) rfl nofun rfl done, replyArrived,
    echoArrived_same_in_connect test rfl]
  rfl

theorem step_of_echoFails (fails : EchoFails test s.host.rx rest) :
    step s = .next (exchanged s [0x65#8, test] rest .idle [.handshakeFailed] []) := by
  obtain ⟨e, differs, hrx⟩ | hrx := fails
  · have done : replyOf ⟨1, .echo test⟩ s = .done [e] rest := replyOf_done (bytes := [e]) hrx rfl
    rw [step_of_command_done r (nextCommand_of_probe ht) rfl nofun rfl done, replyArrived, echoArrived_other differs,
      finish_exchanged]
    rfl
  · have failed : replyOf ⟨1, .echo test⟩ s = .failed rest := replyOf_failed (bytes := []) hrx Nat.one_pos
    rw [step_of_command_failed r (nextCommand_of_probe ht) rfl nofun rfl failed, readFailed, finish_exchanged]
    rfl

end Probe

/-- Probes whose echoes are right, one a step. -/
theorem run_probes {tests after : List Byte} {s : State} {rest : List Delivery} (r : Ready s)
    (ht : s.host.task = .connect (tests ++ after)) (hrx : s.host.rx = delivered tests rest) :
    Host.Core.run core tests.length s = .next (exchanged s (probesSent tests) rest (.connect after) [] []) := by
  induction tests generalizing s with
  | nil =>
    obtain rfl : s.host.rx = rest := hrx
    rw [← show s.host.task = .connect after from ht]
    exact congrArg _ (exchanged_nothing r.awaiting).symm
  | cons test tests ih =>
    have others := ih (r.exchanged [0x65#8, test] (delivered tests rest) (.connect (tests ++ after)) []) rfl rfl
    rw [exchanged_exchanged] at others
    exact (run_of_step (step_of_rightEcho r ht hrx) _).trans others

/-! ## The status query -/

theorem nextCommand_of_query {s : State} (ht : s.host.task = .connect []) :
    nextCommand s = some (.hostStatus, setTask (.connect []) s) := by
  have same : setTask (.connect []) s = s := by
    rw [← ht]
    rfl
  rw [same]
  simp only [nextCommand, ht]

section Query
variable {s : State} {record : List Byte} {rest : List Delivery} (r : Ready s) (ht : s.host.task = .connect [])
  (hlen : record.length = 80) (hrx : s.host.rx = delivered record rest)
include r ht hlen hrx

theorem step_of_query :
    step s = .next (statusArrived record (exchanged s [0x3F#8] rest (.connect []) [] [])) :=
  step_of_command_done r (nextCommand_of_query ht) rfl (fun _ => .inr ⟨rfl, rfl⟩) rfl (replyOf_done hrx hlen)

theorem step_of_malformedRecord (hp : Config.parseStatusCrc record = none) :
    step s = .next (exchanged s [0x3F#8] rest .idle [.statusParseError] []) := by
  rw [step_of_query r ht hlen hrx, statusArrived_malformed hp, finish_exchanged]
  rfl

/-- A record that parses seeds the block, by a request that the next step answers. -/
theorem run_record {v : Word} (hp : Config.parseStatusCrc record = some v) :
    Host.Core.run core 2 s
      = .next (answered (exchanged s [0x3F#8] rest .idle [.session v] []) { s.block with crc := v, connected := true }
          0x0000#16 []) := by
  have query : step s = .next (exchanged s [0x3F#8] rest .idle [.session v] [0x1#4 ++ v]) := by
    rw [step_of_query r ht hlen hrx, statusArrived_in_connect hp rfl, finish_exchanged, issue_exchanged]
    rfl
  have word : (exchanged s [0x3F#8] rest .idle [.session v] [0x1#4 ++ v]).issued = (0x1#4 ++ v) :: (s.issued ++ []) := by
    rw [r.issued]
    exact congrArg (· ++ _) r.issued
  have seed := step_of_issued rfl word (decodeRequest_of_encode (i := .crcSeed v) rfl)
  rw [run_of_step query]
  exact run_of_step (seed.trans (exec_crcSeed_of_free v r.free)) 0

end Query

/-! ## The ends of a connect -/

/-- The first `k` probes, then the next, whose echo fails. -/
theorem run_connect_failed {s : State} {k : Nat} (hk : k < 4) {more rest : List Delivery} (r : Ready s)
    (ht : s.host.task = .connect probeBytes) (hrx : s.host.rx = delivered (probeBytes.take k) more)
    (fails : EchoFails (probeBytes.getD k 0#8) more rest) :
    Host.Core.run core (k + 1) s
      = .next (exchanged s (probesSent (probeBytes.take (k + 1))) rest .idle [.handshakeFailed] []) := by
  have split : ∀ k < 4, probeBytes.take k ++ probeBytes.getD k 0#8 :: probeBytes.drop (k + 1) = probeBytes := by decide
  have length : ∀ k < 4, (probeBytes.take k).length = k := by decide
  have sent : ∀ k < 4,
      probesSent (probeBytes.take k) ++ [0x65#8, probeBytes.getD k 0#8] = probesSent (probeBytes.take (k + 1)) := by decide
  have right := run_probes r (by rw [ht, split k hk]) hrx
  rw [length k hk] at right
  rw [run_add right]
  refine (run_of_step (step_of_echoFails (r.exchanged _ _ _ _) rfl fails) 0).trans ?_
  rw [exchanged_exchanged, sent k hk]
  rfl

/-- Settles O54: four right echoes and a record, that parses or does not; or an echo that fails. -/
theorem connectSeedsTheBlock : Obligations.ConnectSeedsTheBlock := by
  intro s xs hq free clear up hx
  have start := step_of_startConnect hq free clear hx
  obtain ⟨awaiting, issued, -⟩ := hq
  have ready := Ready.begin (s := s) ⟨awaiting, issued, free, clear, up⟩ xs (.connect probeBytes)
  refine ⟨fun record rest hlen hrx => ?_, fun k e rest hk differs hrx => ?_, fun k rest hk hrx => ?_⟩
  · rw [delivered_append] at hrx
    have probes := run_probes (after := []) ready rfl hrx
    have after := ready.exchanged (probesSent probeBytes) (delivered record rest) (.connect []) []
    cases hp : Config.parseStatusCrc record with
    | some v =>
      have seeded := run_record after rfl hlen rfl hp
      rw [exchanged_exchanged] at seeded
      exact (run_of_step start 6).trans ((run_add probes 2).trans seeded)
    | none =>
      have malformed := step_of_malformedRecord after rfl hlen rfl hp
      rw [exchanged_exchanged] at malformed
      exact (run_of_step start 5).trans ((run_add probes 1).trans (run_of_step malformed 0))
  · rw [delivered_append] at hrx
    exact (run_of_step start _).trans (run_connect_failed hk ready rfl hrx (.inl ⟨e, differs, rfl⟩))
  · exact (run_of_step start _).trans (run_connect_failed hk ready rfl hrx (.inr rfl))

end Sys2Proof.Claims
end

section
/-! The Capture Decoder (42_capture_decoder.md R130 to R143): what CAP_SYMBOL and CAP_BYTE answer for each outcome of their symbol
steps, the symbol rows as the requests of their symbols, and how many events a run of symbols emits. -/

namespace Sys2Proof.Claims

open Sys2Proof.Machine

/-! ## CAP_ENTER (R130) -/

theorem decodeRequest_capEnter (x : Word) :
    decodeRequest (0x6#4 ++ x) = if x = 0#16 then .ok .capEnter else .error (.mustBeZero (0x6#4 ++ x)) := by
  change decodeRequest (requestWord opCapEnter x) = if _ then _ else .error (.mustBeZero (requestWord opCapEnter x))
  by_cases h : x = 0#16 <;> simp [decodeRequest, opCapEnter, operandNone, h]

theorem capEnter_sessionRequest :
    SessionRequest .capEnter fun s =>
      .next (answered s { s.block with capActive := true, pendingStart := false, accValue := 0#9, accCount := 0#4 }
        0x0000#16 []) := fun _ => rfl

/-- Settles O19: a request that needs a session, whose effect is the clean decoder in capture mode. -/
theorem capEnterStartsACleanDecoder : Obligations.CapEnterStartsACleanDecoder :=
  ⟨decodeRequest_capEnter, fun _ => ⟨capEnter_sessionRequest.exec_of_session, capEnter_sessionRequest.exec_of_capturing,
    capEnter_sessionRequest.exec_of_no_session⟩⟩

/-! ## One symbol step, by class (R132 to R139) -/

theorem symbolStep_of_reserved (p : ReservedSymbolPolicy) {n : Nibble} (h : reservedSymbol n = true) (b : Block) :
    symbolStep p n b = stepReserved p b := by
  obtain ⟨lo, hi⟩ : 3 ≤ n.toNat ∧ n.toNat ≤ 7 := by simpa [reservedSymbol] using h
  obtain ⟨data, -⟩ | ⟨rfl, -⟩ | ⟨rfl, -⟩ | ⟨rfl, -⟩ | ⟨-, -, e⟩ := symbolStep_cases p n b
  · have control : n.getLsbD 3 = false := Nat.testBit_lt_two_pow (by omega)
    cases control.symm.trans data
  · cases lo
  · simp at lo
  · simp at lo
  · exact e

theorem symbolStep_of_reserved_fault {p : ReservedSymbolPolicy} (policy : p = .fault) {n : Nibble}
    (reserved : reservedSymbol n = true) (b : Block) : symbolStep p n b = .error .reservedSymbol :=
  (symbolStep_of_reserved p reserved b).trans (policy ▸ rfl)

theorem symbolStep_of_reserved_ignore {p : ReservedSymbolPolicy} (policy : p = .ignore) {n : Nibble}
    (reserved : reservedSymbol n = true) (b : Block) : symbolStep p n b = .ok (b, none) :=
  (symbolStep_of_reserved p reserved b).trans (policy ▸ rfl)

theorem symbolStep_of_unreserved {p : ReservedSymbolPolicy} {n : Nibble} (h : p = .ignore ∨ reservedSymbol n = false)
    (b : Block) : ∃ c ev, symbolStep p n b = .ok (c, ev) := by
  cases hs : symbolStep p n b with
  | ok r => exact ⟨r.1, r.2, rfl⟩
  | error e =>
    obtain ⟨-, rfl, lo, hi⟩ := symbolStep_error hs
    simp [reservedSymbol, lo, hi] at h

theorem appendBits_accCount_eq_nine_iff (d : BitVec 3) (b : Block) :
    (appendBits d b).accCount = 9#4 ↔ b.accCount = 6#4 :=
  add_left_inj (c := 6#4) (3#4)

theorem stepData_of_partial (d : BitVec 3) {b : Block} (h : b.accCount ≠ 6#4) :
    stepData d b = .ok ({ b with accValue := (b.accValue <<< 3) ||| (0#6 ++ d), accCount := b.accCount + 3#4 }, none) := by
  have zeros : d.zeroExtend 9 = 0#6 ++ d := BitVec.setWidth_eq_append (by decide)
  rw [stepData, if_neg (mt (appendBits_accCount_eq_nine_iff d b).mp h), ← zeros]
  rfl

/-- The bits shifted in land below the six that stay. -/
theorem shiftLeft_or_eq_append (v : BitVec 9) (d : BitVec 3) :
    (v <<< 3) ||| d.zeroExtend 9 = v.extractLsb' 0 6 ++ d := by
  have kept : (v.extractLsb' 0 6).setWidth 9 <<< 3 = v <<< 3 := by
    ext i hi
    by_cases low : i < 3
    · simp [low]
    · simp [low, show i - 3 < 6 by omega, BitVec.getLsbD_eq_getElem (show i - 3 < 9 by omega)]
  have group := BitVec.setWidth_append_eq_shiftLeft_setWidth_or (b := v.extractLsb' 0 6) (b' := d) (w'' := 9)
  rw [kept, BitVec.setWidth_eq] at group
  exact group.symm

theorem stepData_of_full (d : BitVec 3) {b : Block} (h : b.accCount = 6#4) :
    stepData d b = .ok (cleanDecoder b, some (groupEvent b.pendingStart (b.accValue.extractLsb' 0 6 ++ d))) := by
  rw [stepData, if_pos ((appendBits_accCount_eq_nine_iff d b).mpr h), completeGroup_eq, ← shiftLeft_or_eq_append]
  rfl

/-! ## CAP_SYMBOL (R131) -/

theorem exec_capSymbol_of_free {s : State} (free : s.block.capActive = false) (n : Nibble) :
    exec (.capSymbol n) s = .next (errored s 4#3 0x08#8) := by
  rw [exec_capSymbol, execCapSymbol, whenCapturing_of_free _ free]
  rfl

section CapSymbol
variable {s : State} (capturing : s.block.capActive = true) {n : Nibble}
include capturing

theorem exec_capSymbol_of_ok {b : Block} {ev : Option BusEvent}
    (h : symbolStep s.params.reservedSymbol n s.block = .ok (b, ev)) :
    exec (.capSymbol n) s = .next (answered s b 0x0000#16 ev.toList) := by
  rw [exec_capSymbol, execCapSymbol, whenCapturing_of_capturing _ capturing, h]
  rfl

theorem exec_capSymbol_of_error {e : ErrorKind} (h : symbolStep s.params.reservedSymbol n s.block = .error e) :
    exec (.capSymbol n) s = .next (errored s 5#3 0x10#8) := by
  obtain ⟨rfl, -⟩ := symbolStep_error h
  rw [exec_capSymbol, execCapSymbol, whenCapturing_of_capturing _ capturing, h]
  rfl

/-- A CAP_SYMBOL that was answered with code 0 is a symbol step that succeeded. -/
theorem symbolStep_of_answered {b : Block} {events : List BusEvent}
    (h : exec (.capSymbol n) s = .next (answered s b 0x0000#16 events)) :
    ∃ ev, symbolStep s.params.reservedSymbol n s.block = .ok (b, ev) ∧ ev.toList = events := by
  cases hs : symbolStep s.params.reservedSymbol n s.block with
  | error e =>
    have codes := (exec_capSymbol_of_error capturing hs).symm.trans h
    simp [errored, answered] at codes
  | ok r =>
    obtain ⟨c, ev⟩ := r
    have same := (exec_capSymbol_of_ok capturing hs).symm.trans h
    simp only [answered, Host.Outcome.next.injEq, State.mk.injEq, List.append_cancel_left_eq, List.cons.injEq,
      Response.mk.injEq, true_and, and_true] at same
    obtain ⟨rfl, events⟩ := same
    exact ⟨ev, rfl, events⟩

end CapSymbol

/-- Settles O22: the three control symbols' steps succeed. -/
theorem controlSymbolsIdleStartStop : Obligations.ControlSymbolsIdleStartStop :=
  fun _ capturing => ⟨exec_capSymbol_of_ok (n := 0x0#4) capturing rfl, exec_capSymbol_of_ok (n := 0x1#4) capturing rfl,
    exec_capSymbol_of_ok (n := 0x2#4) capturing rfl⟩

/-- Settles O23: a reserved symbol's step is decided by the policy. -/
theorem reservedSymbolsFollowThePolicy : Obligations.ReservedSymbolsFollowThePolicy := by
  intro s n capturing reserved
  exact ⟨fun policy => exec_capSymbol_of_error capturing (symbolStep_of_reserved_fault policy reserved s.block),
    fun policy => exec_capSymbol_of_ok capturing (symbolStep_of_reserved_ignore policy reserved s.block)⟩

/-- Settles O24: a data symbol's step turns on whether six bits are held. -/
theorem dataSymbolAppendsOrCompletes : Obligations.DataSymbolAppendsOrCompletes := by
  intro s d capturing
  have data := symbolStep_data s.params.reservedSymbol d s.block
  exact ⟨fun h => exec_capSymbol_of_ok capturing (data.trans (stepData_of_partial d h)),
    fun h => exec_capSymbol_of_ok capturing (data.trans (stepData_of_full d h))⟩

/-! ## The symbol rows (R131 to R139) -/

/-- An instruction that is written as a symbol acts as CAP_SYMBOL of that symbol. -/
theorem exec_of_encode_symbol {i : Instr} {n : Nibble} (h : encode i = .symbol n) (s : State) :
    exec i s = exec (.capSymbol n) s := by
  cases i with
  | symIdle | symStart | symStop | symReserved3 =>
    cases h
    rfl
  | symReserved4To7 low =>
    cases h
    have reserved : reservedSymbol (0b01#2 ++ low) = true := by
      revert low
      decide
    rw [exec_symReserved4To7, execSymReserved4To7, exec_capSymbol, execCapSymbol]
    simp only [symbolStep_of_reserved _ reserved]
  | symData d =>
    cases h
    rw [exec_symData, execSymData_eq_execCapSymbol, exec_capSymbol]
  | _ => cases h

/-- Settles O21: a decoded symbol's instruction is written as that symbol. -/
theorem capSymbolIsItsSymbol : Obligations.CapSymbolIsItsSymbol :=
  fun s n => ⟨decodeRequest_of_encode (encode_capSymbol n), (exec_of_encode_symbol (encode_decodeSymbol n) s).symm,
    fun free => exec_capSymbol_of_free free n⟩

/-- Settles O20: each row acts as CAP_SYMBOL of its symbol, of which the statements above speak. -/
theorem symbolsOnTheirOwnAct : Obligations.SymbolsOnTheirOwnAct := by
  intro s low d capturing
  have row {i : Instr} {n : Nibble} (h : encode i = .symbol n) := exec_of_encode_symbol h s
  obtain ⟨idle, start, stop⟩ := controlSymbolsIdleStartStop s capturing
  obtain ⟨fault3, ignore3⟩ := reservedSymbolsFollowThePolicy s 0x3#4 capturing rfl
  obtain ⟨fault, ignore⟩ := reservedSymbolsFollowThePolicy s (0b01#2 ++ low) capturing (by revert low; decide)
  obtain ⟨appends, completes⟩ := dataSymbolAppendsOrCompletes s d capturing
  rw [row (i := .symIdle) rfl, row (i := .symStart) rfl, row (i := .symStop) rfl, row (i := .symReserved3) rfl,
    row (i := .symReserved4To7 low) rfl, row (i := .symData d) rfl]
  exact ⟨idle, start, stop, fun p => ⟨ignore3 p, ignore p⟩, fun p => ⟨fault3 p, fault p⟩, appends, completes⟩

/-! ## CAP_BYTE (R140) -/

theorem exec_capByte_of_free {s : State} (free : s.block.capActive = false) (x : Byte) :
    exec (.capByte x) s = .next (errored s 4#3 0x08#8) := by
  rw [exec_capByte, execCapByte, whenCapturing_of_free _ free]
  rfl

section CapByte
variable {s : State} (capturing : s.block.capActive = true) {x : Byte}
include capturing

theorem exec_capByte_of_highError {e : ErrorKind}
    (high : symbolStep s.params.reservedSymbol (x.extractLsb' 4 4) s.block = .error e) :
    exec (.capByte x) s = .next (errored s 5#3 0x10#8) := by
  obtain ⟨rfl, -⟩ := symbolStep_error high
  rw [exec_capByte, execCapByte, whenCapturing_of_capturing _ capturing, highNibble, high]
  rfl

variable {b : Block} {ev : Option BusEvent}
  (high : symbolStep s.params.reservedSymbol (x.extractLsb' 4 4) s.block = .ok (b, ev))
include high

theorem exec_capByte_of_lowError {e : ErrorKind}
    (low : symbolStep s.params.reservedSymbol (x.extractLsb' 0 4) b = .error e) :
    exec (.capByte x) s
      = .next
        { s with
          block := { b with errFlags := b.errFlags ||| 0x10#8 }
          responses := s.responses ++ [⟨5#3, 0x0000#16, ev.toList⟩] } := by
  obtain ⟨rfl, -⟩ := symbolStep_error low
  rw [exec_capByte, execCapByte, whenCapturing_of_capturing _ capturing, highNibble, lowNibble, high]
  simp only [low]
  rfl

theorem exec_capByte_of_ok {c : Block} {ev' : Option BusEvent}
    (low : symbolStep s.params.reservedSymbol (x.extractLsb' 0 4) b = .ok (c, ev')) :
    exec (.capByte x) s = .next (answered s c 0x0000#16 (ev.toList ++ ev'.toList)) := by
  rw [exec_capByte, execCapByte, whenCapturing_of_capturing _ capturing, highNibble, lowNibble, high]
  simp only [low]
  rfl

end CapByte

/-- Settles O25: an answered CAP_SYMBOL gives back its symbol step, and the high symbol leaves the capture mode for the low
one. -/
theorem capByteIsTwoSymbolSteps : Obligations.CapByteIsTwoSymbolSteps := by
  refine fun s x => ⟨decodeRequest_of_encode (encode_capByte x), fun free => exec_capByte_of_free free x,
    fun capturing => ⟨fun b1 e1 b2 e2 first second => ?_, fun policy reserved => ?_, fun b1 e1 policy reserved first => ?_⟩⟩
  · obtain ⟨ev1, high, rfl⟩ := symbolStep_of_answered capturing first
    have still : b1.capActive = true := (symbolStep_move high).capActive.trans capturing
    obtain ⟨ev2, low, rfl⟩ := symbolStep_of_answered (s := { s with block := b1 }) still second
    exact exec_capByte_of_ok capturing high low
  · exact exec_capByte_of_highError capturing (symbolStep_of_reserved_fault policy reserved s.block)
  · obtain ⟨ev1, high, rfl⟩ := symbolStep_of_answered capturing first
    exact exec_capByte_of_lowError capturing high (symbolStep_of_reserved_fault policy reserved b1)

/-- Settles O26: both steps succeed, each with at most one event, and write the decoder's registers only. -/
theorem capByteSucceedsWithoutReservedSymbols : Obligations.CapByteSucceedsWithoutReservedSymbols := by
  intro s x capturing h
  obtain ⟨highOk, lowOk⟩ := or_and_left.mp h
  obtain ⟨b, ev, high⟩ := symbolStep_of_unreserved highOk s.block
  obtain ⟨c, ev', low⟩ := symbolStep_of_unreserved lowOk b
  have first := symbolStep_move high
  have second := symbolStep_move low
  refine ⟨c, _, exec_capByte_of_ok capturing high low, ?_, second.crc.trans first.crc, second.connected.trans first.connected,
    second.capActive.trans (first.capActive.trans capturing), second.errFlags.trans first.errFlags⟩
  have atMostOne (o : Option BusEvent) : o.toList.length ≤ 1 := by cases o <;> simp
  rw [List.length_append]
  exact Nat.add_le_add (atMostOne ev) (atMostOne ev')

/-! ## The events of a run of symbols (R143) -/

/-- What went in came out or is still held: nine bits for each Start or Byte and those in the accumulator are three for each
data symbol, and there is one Stop for each symbol 2. -/
structure Accounted (b : Block) (symbols : List Nibble) (events : List BusEvent) (c : Block) : Prop where
  bits : 9 * (events.filter (fun e => !isStop e)).length + c.accCount.toNat
    = b.accCount.toNat + 3 * (symbols.filter (fun n => 8 ≤ n.toNat)).length
  stops : (events.filter isStop).length = (symbols.filter (fun n => n == 0x2#4)).length
  reachable : c.accCount ∈ accCounts

theorem Accounted.append {b c d : Block} {xs ys : List Nibble} {es fs : List BusEvent} (h : Accounted b xs es c)
    (k : Accounted c ys fs d) : Accounted b (xs ++ ys) (es ++ fs) d := by
  refine ⟨?_, ?_, k.reachable⟩
  · have := h.bits
    have := k.bits
    simp only [List.filter_append, List.length_append]
    omega
  · simp only [List.filter_append, List.length_append, h.stops, k.stops]

theorem not_stopSymbol {n : Nibble} (h : 3 ≤ n.toNat) : (n == 0x2#4) = false := by
  rw [beq_eq_false_iff_ne]
  rintro rfl
  simp at h

theorem filter_isStop_groupEvent (addressPhase : Bool) (g : BitVec 9) : [groupEvent addressPhase g].filter isStop = [] := by
  cases addressPhase <;> rfl

/-- Three bits fit an accumulator that holds none or three (10_state.md R26). -/
theorem add_three_of_partial : ∀ k ∈ accCounts, k ≠ 6#4 → (k + 3#4).toNat = k.toNat + 3 ∧ k + 3#4 ∈ accCounts := by
  decide

theorem stepData_accounted {n : Nibble} (data : n.getLsbD 3 = true) (d : BitVec 3) {b c : Block} {ev : Option BusEvent}
    (hb : b.accCount ∈ accCounts) (h : stepData d b = .ok (c, ev)) : Accounted b [n] ev.toList c := by
  have high : 8 ≤ n.toNat := Nat.ge_two_pow_of_testBit data
  have other := not_stopSymbol (show 3 ≤ n.toNat by omega)
  by_cases full : b.accCount = 6#4
  · rw [stepData_of_full d full] at h
    cases h
    refine ⟨?_, by simp [filter_isStop_groupEvent, other], List.mem_cons_self⟩
    rw [Option.toList_some, filter_groupEvent, full]
    simp [cleanDecoder, high]
  · rw [stepData_of_partial d full] at h
    cases h
    obtain ⟨three, reachable⟩ := add_three_of_partial _ hb full
    exact ⟨by simp [high, three], by simp [other], reachable⟩

theorem symbolStep_accounted {p : ReservedSymbolPolicy} {n : Nibble} {b c : Block} {ev : Option BusEvent}
    (hb : b.accCount ∈ accCounts) (h : symbolStep p n b = .ok (c, ev)) : Accounted b [n] ev.toList c := by
  obtain ⟨data, e⟩ | ⟨rfl, e⟩ | ⟨rfl, e⟩ | ⟨rfl, e⟩ | ⟨lo, hi, e⟩ := symbolStep_cases p n b <;> rw [e] at h
  · exact stepData_accounted data _ hb h
  · cases h; exact ⟨Nat.zero_add _, rfl, hb⟩
  · cases h; exact ⟨Nat.zero_add _, rfl, hb⟩
  · cases h; exact ⟨Nat.zero_add _, rfl, hb⟩
  · cases p with
    | fault => cases h
    | ignore =>
      cases h
      exact ⟨by simp [Nat.not_le.mpr (Nat.lt_succ_of_le hi)], by simp [not_stopSymbol lo], hb⟩

theorem Consumes.accounted {p : ReservedSymbolPolicy} {b c : Block} {symbols : List Nibble} {events : List BusEvent}
    (h : Consumes p b symbols events c) (hb : b.accCount ∈ accCounts) : Accounted b symbols events c := by
  induction h with
  | nil b => exact ⟨Nat.add_comm _ _, rfl, hb⟩
  | cons first _ ih =>
    have one := symbolStep_accounted hb first
    exact one.append (ih one.reachable)

theorem consumes_of_unreserved (p : ReservedSymbolPolicy) {symbols : List Nibble}
    (h : ∀ n ∈ symbols, reservedSymbol n = false) (b : Block) : ∃ events c, Consumes p b symbols events c := by
  induction symbols generalizing b with
  | nil => exact ⟨[], b, .nil b⟩
  | cons n symbols ih =>
    obtain ⟨hn, h⟩ := List.forall_mem_cons.mp h
    obtain ⟨c, ev, first⟩ := symbolStep_of_unreserved (.inr hn) b
    obtain ⟨events, d, others⟩ := ih h c
    exact ⟨_, d, .cons first others⟩

/-- Settles O27: the decoder consumes the symbols, and fewer than nine bits are left in the accumulator. -/
theorem eventCountsOfASymbolRun : Obligations.EventCountsOfASymbolRun := by
  intro s symbols hq capturing empty hin unreserved
  obtain ⟨events, c, consumes⟩ := consumes_of_unreserved s.params.reservedSymbol unreserved s.block
  have accounts := consumes.accounted (by simp [accCounts, empty])
  obtain ⟨rs, hrun, rfl⟩ := consumes.run (rest := []) hq capturing s.responses
  rw [List.append_nil, ← hin] at hrun
  refine ⟨_, rs, hrun, rfl, rfl, ?_, accounts.stops⟩
  have bits := accounts.bits
  have held : ∀ k ∈ accCounts, k.toNat < 9 := by decide
  have := held _ accounts.reachable
  rw [empty, BitVec.toNat_zero] at bits
  omega

end Sys2Proof.Claims
end

section
/-! What was answered, sent or reported stays, and the parameters with it (00_scope.md R6 to R9, 10_state.md R29,
42_capture_decoder.md R142): a row on the block gives one response, the driver gives none, and nothing that a step does before
its instruction reaches the logs. -/

namespace Sys2Proof.Claims

open Sys2Proof.Machine

/-! ## The one response of a row on the block (30_encoding.md R54) -/

/-- The block answers once: of the state only its registers and the responses change. -/
def AnswersOnce (s : State) (o : Result) : Prop :=
  ∃ b r, o = .next { s with block := b, responses := s.responses ++ [r] }

theorem answered_answersOnce (s : State) (b : Block) (data : Word) (events : List BusEvent) :
    AnswersOnce s (.next (answered s b data events)) := ⟨b, _, rfl⟩

theorem raiseError_answersOnce (e : ErrorKind) (events : List BusEvent) (b : Block) (s : State) :
    AnswersOnce s (raiseError e events { s with block := b }) := ⟨_, _, rfl⟩

section Gates
variable {k : State → Result} {s : State} (hk : AnswersOnce s (k s))
include hk

theorem whenNotCapturing_answersOnce : AnswersOnce s (whenNotCapturing k s) := by
  unfold whenNotCapturing
  split
  · exact raiseError_answersOnce _ _ s.block s
  · exact hk

theorem whenInSession_answersOnce : AnswersOnce s (whenInSession k s) := by
  refine whenNotCapturing_answersOnce ?_
  split
  · exact hk
  · exact raiseError_answersOnce _ _ s.block s

theorem whenCapturing_answersOnce : AnswersOnce s (whenCapturing k s) := by
  unfold whenCapturing
  split
  · exact hk
  · exact raiseError_answersOnce _ _ s.block s

end Gates

theorem SessionRequest.answersOnce {i : Instr} {effect : State → Result} (r : SessionRequest i effect) {s : State}
    (h : AnswersOnce s (effect s)) : AnswersOnce s (exec i s) := by
  rw [r s]
  exact whenInSession_answersOnce h

theorem execCapSymbol_answersOnce (n : Nibble) (s : State) : AnswersOnce s (execCapSymbol n s) := by
  refine whenCapturing_answersOnce ?_
  unfold answerSymbol
  split
  · exact answered_answersOnce s _ _ _
  · exact raiseError_answersOnce _ _ s.block s

theorem execCapByte_answersOnce (x : Byte) (s : State) : AnswersOnce s (execCapByte x s) := by
  refine whenCapturing_answersOnce ?_
  split
  · exact raiseError_answersOnce _ _ s.block s
  · split
    · exact raiseError_answersOnce _ _ _ s
    · exact answered_answersOnce s _ _ _

theorem exec_answersOnce {i : Instr} (hi : onBlock i = true) (s : State) : AnswersOnce s (exec i s) := by
  cases i with
  | crcSeed v =>
    rw [exec_crcSeed]
    exact whenNotCapturing_answersOnce (answered_answersOnce s _ _ _)
  | crcUpdateByte b => exact (crcUpdateByte_sessionRequest b).answersOnce (answered_answersOnce s _ _ _)
  | crcUpdateNibble n => exact (crcUpdateNibble_sessionRequest n).answersOnce (answered_answersOnce s _ _ _)
  | crcRead => exact crcRead_sessionRequest.answersOnce (answered_answersOnce s _ _ _)
  | crcCheck v =>
    refine (crcCheck_sessionRequest v).answersOnce ?_
    split <;> exact answered_answersOnce s _ _ _
  | capEnter => exact capEnter_sessionRequest.answersOnce (answered_answersOnce s _ _ _)
  | capSymbol n => exact execCapSymbol_answersOnce n s
  | capByte x => exact execCapByte_answersOnce x s
  | disconnect | errRead => exact answered_answersOnce s _ _ _
  | reservedOp0 _ | reservedOpB _ | reservedOpC _ | reservedOpD _ | reservedOpE _ | reservedOpF _ =>
    exact raiseError_answersOnce _ _ s.block s
  | symIdle | symStart | symStop | symReserved3 | symReserved4To7 _ | symData _ =>
    rw [exec_of_encode_symbol rfl]
    exact execCapSymbol_answersOnce _ s
  | _ => cases hi

/-! ## The logs -/

/-- The parameters stay, at most `n` responses are added, and the logs of the driver grow. -/
structure LogMove (n : Nat) (s t : State) : Prop where
  params : t.params = s.params
  responses : ∃ rs, t.responses = s.responses ++ rs ∧ rs.length ≤ n
  tx : ∃ bytes, t.host.tx = s.host.tx ++ bytes
  results : ∃ rs, t.host.results = s.host.results ++ rs

theorem LogMove.trans {m n : Nat} {s t u : State} (h : LogMove m s t) (k : LogMove n t u) : LogMove (m + n) s u := by
  obtain ⟨p, ⟨rs, hr, hm⟩, ⟨xs, hx⟩, ⟨ys, hy⟩⟩ := h
  obtain ⟨p', ⟨rs', hr', hn⟩, ⟨xs', hx'⟩, ⟨ys', hy'⟩⟩ := k
  exact ⟨p'.trans p, ⟨rs ++ rs', by rw [hr', hr, List.append_assoc], by rw [List.length_append]; omega⟩,
    ⟨xs ++ xs', by rw [hx', hx, List.append_assoc]⟩, ⟨ys ++ ys', by rw [hy', hy, List.append_assoc]⟩⟩

theorem LogMove.mono {m n : Nat} {s t : State} (h : LogMove m s t) (le : m ≤ n) : LogMove n s t := by
  obtain ⟨rs, hr, hm⟩ := h.responses
  exact { h with responses := ⟨rs, hr, hm.trans le⟩ }

theorem logMove_of_commandMove {bytes : List Byte} {s t : State} (m : CommandMove bytes s t) : LogMove 0 s t where
  params := m.params
  responses := ⟨[], by rw [m.responses, List.append_nil], Nat.le_refl 0⟩
  tx := m.tx.elim (fun same => ⟨[], by rw [same, List.append_nil]⟩) fun sent => ⟨bytes, sent⟩
  results := m.results

theorem logMove_of_driverMove {s t : State} (m : DriverMove s t) : LogMove 0 s t := logMove_of_commandMove (m.command [])

/-- What the logs keep, whatever becomes of the registers, the requests issued and the inputs. -/
theorem logMove_of_host (s : State) (b : Block) (issued : List RequestWord) (inputs : List Input) :
    LogMove 0 s { s with block := b, issued := issued, inputs := inputs } :=
  ⟨rfl, ⟨[], (List.append_nil _).symm, Nat.le_refl 0⟩, ⟨[], (List.append_nil _).symm⟩, ⟨[], (List.append_nil _).symm⟩⟩

theorem AnswersOnce.logs {s t : State} {o : Result} (h : AnswersOnce s o) (ht : o = .next t) : LogMove 1 s t := by
  obtain ⟨b, r, rfl⟩ := h
  cases ht
  exact ⟨rfl, ⟨[r], rfl, Nat.le_refl 1⟩, ⟨[], (List.append_nil _).symm⟩, ⟨[], (List.append_nil _).symm⟩⟩

theorem exec_logs {i : Instr} {s t : State} (h : exec i s = .next t) : LogMove 1 s t := by
  cases hi : onBlock i with
  | true => exact (exec_answersOnce hi s).logs h
  | false => exact (logMove_of_commandMove (exec_commandMove hi h)).mono (Nat.zero_le 1)

/-! ## What a step does next -/

/-- An instruction runs where the logs are as before, or the step has ended with at most one response. -/
def FetchedLogs (s : State) : Fetched → Prop
  | .run _ u => LogMove 0 s u
  | .done o => ∀ t, o = .next t → LogMove 1 s t

theorem fetchedLogs_done {s t : State} (h : LogMove 0 s t) : FetchedLogs s (.done (.next t)) := by
  rintro _ ⟨⟩
  exact h.mono (Nat.zero_le 1)

theorem FetchedLogs.after {s u : State} {f : Fetched} (h : LogMove 0 s u) (k : FetchedLogs u f) : FetchedLogs s f := by
  cases f with
  | run i v => exact h.trans k
  | done o => exact fun t ht => (h.trans (k t ht)).mono (Nat.le_of_eq (Nat.zero_add 1))

theorem fetchRequest_logs (w : RequestWord) (s : State) : FetchedLogs s (fetchRequest w s) := by
  unfold fetchRequest
  split
  · exact logMove_of_host s s.block s.issued s.inputs
  · exact fun t h => (raiseError_answersOnce _ _ s.block s).logs h

theorem pushBack_logs (rest : List Byte) (s : State) : LogMove 0 s (pushBack rest s) := by
  cases rest <;> exact logMove_of_host s s.block s.issued _

theorem fetchCommand_logs (bytes : List Byte) (s : State) : FetchedLogs s (fetchCommand bytes s) := by
  unfold fetchCommand
  split
  · exact pushBack_logs _ s
  · rintro _ ⟨⟩
  · rintro _ ⟨⟩
  · exact fetchedLogs_done (logMove_of_host s s.block s.issued s.inputs)
  · exact fetchedLogs_done (logMove_of_host s s.block s.issued s.inputs)

theorem fetchInput_logs (x : Input) (s : State) : FetchedLogs s (fetchInput x s) := by
  cases x with
  | code e =>
    cases e with
    | request w => exact (fetchRequest_logs w _).after (logMove_of_driverMove (noteRequest_move w s))
    | symbol n => exact logMove_of_host s s.block s.issued s.inputs
    | command bytes => exact fetchCommand_logs bytes s
  | op o => exact fun t h => (logMove_of_commandMove (startOp_move h)).mono (Nat.zero_le 1)
  | reset => exact fetchedLogs_done (logMove_of_host s _ s.issued s.inputs)
  | exit => exact fetchedLogs_done (logMove_of_driverMove (tearDown_move _ s))

theorem waitStep_logs (a : Await) (s : State) : LogMove 0 s (waitStep a s) := by
  obtain e | ⟨rest, -, e⟩ | ⟨x, rest, -, -, e⟩ := waitStep_cases a s <;> rw [e]
  · exact logMove_of_driverMove (resumeRead_move a s)
  · exact logMove_of_host s _ s.issued rest
  · exact (logMove_of_host s s.block s.issued rest).trans (logMove_of_driverMove (tearDown_move _ _))

theorem nextCommand_logs {s u : State} {i : Instr} (h : nextCommand s = some (i, u)) : LogMove 0 s u := by
  unfold nextCommand at h
  split at h <;> cases h
  · exact logMove_of_host s s.block s.issued s.inputs
  all_goals exact logMove_of_driverMove (setTask_move _ s)

theorem fetch_logs (s : State) : FetchedLogs s (fetch s) := by
  unfold fetch
  split
  · exact fetchedLogs_done (waitStep_logs _ s)
  · split
    · exact (fetchRequest_logs _ _).after (logMove_of_host s s.block _ s.inputs)
    · split
      · next h => exact nextCommand_logs h
      · split
        · exact fetchedLogs_done (logMove_of_host s s.block s.issued s.inputs)
        · exact (fetchInput_logs _ _).after (logMove_of_host s s.block s.issued _)

/-- A step adds at most one response, and the rest of the logs only grows. -/
theorem step_logs {s t : State} (h : step s = .next t) : LogMove 1 s t := by
  have fetched := fetch_logs s
  unfold step at h
  cases hf : fetch s with
  | run i u =>
    rw [hf] at h fetched
    exact LogMove.trans fetched (exec_logs h)
  | done o =>
    rw [hf] at h fetched
    exact fetched t h

/-- Settles O36: what is fetched leaves the logs, an instruction of the block answers once, and one of the driver adds to its
own logs. -/
theorem logsOnlyGrow : Obligations.LogsOnlyGrow :=
  fun _ _ h => ⟨(step_logs h).params, (step_logs h).responses, (step_logs h).tx, (step_logs h).results⟩

end Sys2Proof.Claims
end

section
/-! Errors (60_exceptions.md R160 to R163): how a row on the block ends, read off the outcomes of each request, and what an error
then leaves unchanged. -/

namespace Sys2Proof.Claims

open Sys2Proof.Machine

/-- How an instruction on the block can end: it succeeds, or an error sets its flag and no more, or the second symbol of a
CAP_BYTE fails where the first's writes and event stand (42_capture_decoder.md R140). -/
inductive BlockAnswer (s : State) : Instr → State → Prop
  | success (i : Instr) (b : Block) (data : Word) (events : List BusEvent) : BlockAnswer s i (answered s b data events)
  | error (i : Instr) (e : ErrorKind) : BlockAnswer s i (errored s (errorCode e) (1#8 <<< errorBit e))
  | lowSymbolError (x : Byte) {b : Block} {events : List BusEvent} (kept : b.errFlags = s.block.errFlags)
      (first : exec (.capSymbol (x.extractLsb' 4 4)) s = .next (answered s b 0x0000#16 events)) :
      BlockAnswer s (.capByte x)
        { s with
          block := { b with errFlags := b.errFlags ||| 0x10#8 }
          responses := s.responses ++ [⟨5#3, 0x0000#16, events⟩] }

/-- The outcome `o` is a next state, in which instruction `i` has ended. -/
def AnswersAs (i : Instr) (s : State) (o : Result) : Prop := ∃ t, o = .next t ∧ BlockAnswer s i t

theorem answersAs_success {i : Instr} {s : State} {o : Result} {b : Block} {data : Word} {events : List BusEvent}
    (h : o = .next (answered s b data events)) : AnswersAs i s o := ⟨_, h, .success i b data events⟩

theorem answersAs_error {i : Instr} {s : State} {o : Result} (e : ErrorKind)
    (h : o = .next (errored s (errorCode e) (1#8 <<< errorBit e))) : AnswersAs i s o := ⟨_, h, .error i e⟩

/-! ## How each request ends -/

theorem crcSeed_answersAs (v : Word) (s : State) : AnswersAs (.crcSeed v) s (exec (.crcSeed v) s) := by
  cases hc : s.block.capActive with
  | true => exact answersAs_error .captureBusy (exec_crcSeed_of_capturing v hc)
  | false => exact answersAs_success (exec_crcSeed_of_free v hc)

/-- A request that needs a session ends with one of the two errors of its conditions, or as its effect does. -/
theorem SessionRequest.answersAs {i : Instr} {effect : State → Result} (r : SessionRequest i effect) {s : State}
    (h : AnswersAs i s (effect s)) : AnswersAs i s (exec i s) := by
  cases hc : s.block.capActive with
  | true => exact answersAs_error .captureBusy (r.exec_of_capturing hc)
  | false =>
    cases hs : s.block.connected with
    | true => rwa [r.exec_of_session hc hs]
    | false => exact answersAs_error .notConnected (r.exec_of_no_session hc hs)

/-- CAP_SYMBOL, and every row `i` that acts as it. -/
theorem capSymbol_answersAs (i : Instr) (n : Nibble) (s : State) : AnswersAs i s (exec (.capSymbol n) s) := by
  cases hc : s.block.capActive with
  | false => exact answersAs_error .notInCapture (exec_capSymbol_of_free hc n)
  | true =>
    cases hs : symbolStep s.params.reservedSymbol n s.block with
    | error e => exact answersAs_error .reservedSymbol (exec_capSymbol_of_error hc hs)
    | ok r => exact answersAs_success (exec_capSymbol_of_ok hc hs)

theorem capByte_answersAs (x : Byte) (s : State) : AnswersAs (.capByte x) s (exec (.capByte x) s) := by
  cases hc : s.block.capActive with
  | false => exact answersAs_error .notInCapture (exec_capByte_of_free hc x)
  | true =>
    cases high : symbolStep s.params.reservedSymbol (x.extractLsb' 4 4) s.block with
    | error e => exact answersAs_error .reservedSymbol (exec_capByte_of_highError hc high)
    | ok r =>
      cases low : symbolStep s.params.reservedSymbol (x.extractLsb' 0 4) r.1 with
      | error e =>
        exact ⟨_, exec_capByte_of_lowError hc high low,
          .lowSymbolError x (symbolStep_move high).errFlags (exec_capSymbol_of_ok hc high)⟩
      | ok q => exact answersAs_success (exec_capByte_of_ok hc high low)

/-- Every row on the block ends in one of the three ways. -/
theorem exec_answersAs {i : Instr} (hi : onBlock i = true) (s : State) : AnswersAs i s (exec i s) := by
  cases i with
  | crcSeed v => exact crcSeed_answersAs v s
  | crcUpdateByte b => exact (crcUpdateByte_sessionRequest b).answersAs (answersAs_success rfl)
  | crcUpdateNibble n => exact (crcUpdateNibble_sessionRequest n).answersAs (answersAs_success rfl)
  | crcRead => exact crcRead_sessionRequest.answersAs (answersAs_success rfl)
  | crcCheck v =>
    refine (crcCheck_sessionRequest v).answersAs ?_
    split <;> exact answersAs_success rfl
  | capEnter => exact capEnter_sessionRequest.answersAs (answersAs_success rfl)
  | capSymbol n => exact capSymbol_answersAs _ n s
  | capByte x => exact capByte_answersAs x s
  | disconnect | errRead => exact answersAs_success rfl
  | reservedOp0 _ | reservedOpB _ | reservedOpC _ | reservedOpD _ | reservedOpE _ | reservedOpF _ =>
    exact answersAs_error .badRequest (refuseRequest_eq_errored s)
  | symIdle | symStart | symStop | symReserved3 | symReserved4To7 _ | symData _ =>
    rw [exec_of_encode_symbol rfl]
    exact capSymbol_answersAs _ _ s
  | _ => cases hi

/-- Settles O29: of the three ways in which a row on the block ends, the first has code 0, and the others set the flag of their
code on top of what stands. -/
theorem errorsChangeOnlyErrFlags : Obligations.ErrorsChangeOnlyErrFlags := by
  intro i s hi
  obtain ⟨t, ht, answer⟩ := exec_answersAs hi s
  cases answer with
  | success b data events => exact ⟨_, _, ht, rfl, rfl, fun failed => absurd rfl failed⟩
  | error e => exact ⟨_, _, ht, rfl, rfl, fun _ => ⟨rfl, rfl, .inl ⟨rfl, rfl⟩⟩⟩
  | lowSymbolError x kept first =>
    exact ⟨_, _, ht, rfl, rfl, fun _ => ⟨rfl, congrArg (· ||| 0x10#8) kept, .inr ⟨x, _, rfl, first, rfl⟩⟩⟩

end Sys2Proof.Claims
end

section
/-! Reset, and that nothing stops the machine (60_exceptions.md R160, 70_reset_and_hazards.md R180, R181, R188): where the reset
signal reaches, which requests a block at its reset value answers with code 0, and that every instruction ends in a next state. -/

namespace Sys2Proof.Claims

open Sys2Proof.Machine

/-- Settles O8: a row on the block answers once, and a bridge command has no end but those of `exec_bridgeCommand_cases`. -/
theorem everyInstructionEndsInANextState : Obligations.EveryInstructionEndsInANextState := by
  intro i s
  cases hi : onBlock i with
  | true =>
    obtain ⟨_, _, h⟩ := exec_answersOnce hi s
    exact ⟨_, h⟩
  | false =>
    obtain ⟨_, h⟩ | h | ⟨-, h⟩ | ⟨-, h⟩ | ⟨_, -, -, -, h⟩ := exec_bridgeCommand_cases hi s <;> exact ⟨_, h⟩

/-- The reset signal reaches the block while a read waits. -/
theorem waitStep_of_reset {s : State} {a : Await} {rest : List Input} (h : replyOf a s = .short)
    (hx : s.inputs = .reset :: rest) : waitStep a s = resetSignal { s with inputs := rest } := by
  simp only [waitStep, h, hx]

/-- Settles O38: an empty channel leaves the read short, and a quiet machine takes the signal as its next input. -/
theorem resetSignalReachesOnlyTheBlock : Obligations.ResetSignalReachesOnlyTheBlock := by
  refine ⟨fun s a rest hw pos hrx hx => ?_, fun s rest hq hx => step_of_reset hq hx⟩
  rw [step_of_waiting hw, waitStep_of_reset (replyOf_short (bytes := []) hrx pos) hx]
  rfl

theorem exec_errRead_eq (s : State) :
    exec .errRead s = .next (answered s s.block (s.block.errFlags.zeroExtend 16) []) := rfl

/-- Settles O39: the reset block has no session and is not in capture mode, and DISCONNECT and `err_flags` give zero on it. -/
theorem afterResetOnlyThreeRequestsSucceed : Obligations.AfterResetOnlyThreeRequestsSucceed := by
  intro s h
  have free : s.block.capActive = false := by rw [h]; rfl
  have closed : s.block.connected = false := by rw [h]; rfl
  refine ⟨fun v => exec_crcSeed_of_free v free, ?_, ?_,
    fun b => (crcUpdateByte_sessionRequest b).exec_of_no_session free closed,
    fun n => (crcUpdateNibble_sessionRequest n).exec_of_no_session free closed,
    crcRead_sessionRequest.exec_of_no_session free closed,
    fun v => (crcCheck_sessionRequest v).exec_of_no_session free closed,
    capEnter_sessionRequest.exec_of_no_session free closed, exec_capSymbol_of_free free, exec_capByte_of_free free⟩
  · rw [exec_disconnect_eq, h]
    rfl
  · rw [exec_errRead_eq, h]
    rfl

end Sys2Proof.Claims
end

section
/-! The value of `crc` without a session (70_reset_and_hazards.md R181, R190; 93_implementation_defined.md I4): the driver and the
decoder never look at it, and the requests that do are refused or overwrite it, so machines that differ in it only stay so, or
become equal. -/

namespace Sys2Proof.Claims

open Sys2Proof.Machine

/-! ## Another CRC value -/

section WithCrc
variable (c : Word) (s : State)

@[simp] theorem withCrc_params : (withCrc c s).params = s.params := rfl
@[simp] theorem withCrc_issued : (withCrc c s).issued = s.issued := rfl
@[simp] theorem withCrc_inputs : (withCrc c s).inputs = s.inputs := rfl
@[simp] theorem withCrc_host : (withCrc c s).host = s.host := rfl

/-! ## The driver's operations keep it -/

/-- A choice that does not look at `crc` keeps another value of it if both sides do. -/
theorem ite_withCrc {p p' : Prop} [Decidable p] [Decidable p'] {a a' b b' : State} (hp : p' ↔ p)
    (ha : a' = withCrc c a) (hb : b' = withCrc c b) : (if p' then a' else b') = withCrc c (if p then a else b) := by
  simp only [hp, ha, hb, apply_ite (withCrc c)]

theorem noteRequest_withCrc (w : RequestWord) : noteRequest w (withCrc c s) = withCrc c (noteRequest w s) :=
  ite_withCrc c Iff.rfl rfl rfl

theorem echoArrived_withCrc (test : Byte) (bytes : List Byte) :
    echoArrived test bytes (withCrc c s) = withCrc c (echoArrived test bytes s) := by
  unfold echoArrived
  split
  · exact ite_withCrc c Iff.rfl rfl rfl
  · rfl

theorem statusArrived_withCrc (bytes : List Byte) :
    statusArrived bytes (withCrc c s) = withCrc c (statusArrived bytes s) := by
  unfold statusArrived
  split
  · rfl
  · exact ite_withCrc c Iff.rfl rfl rfl

theorem finishWrite_withCrc (payload : List Byte) (allAck : Bool) :
    finishWrite payload allAck (withCrc c s) = withCrc c (finishWrite payload allAck s) := by
  change finish _ _ = finish _ (withCrc c _)
  exact congrArg _ (ite_withCrc c Iff.rfl rfl rfl)

theorem writeAckArrived_withCrc (data : List Byte) (a : Byte) :
    writeAckArrived data a (withCrc c s) = withCrc c (writeAckArrived data a s) := by
  simp only [writeAckArrived, withCrc_host, withCrc_params]
  split
  · exact finishWrite_withCrc c s _ _
  · rfl

theorem readDataArrived_withCrc (bytes : List Byte) :
    readDataArrived bytes (withCrc c s) = withCrc c (readDataArrived bytes s) := by
  simp only [readDataArrived, withCrc_host]
  split <;> rfl

theorem replyArrived_withCrc (p : Purpose) (bytes : List Byte) :
    replyArrived p bytes (withCrc c s) = withCrc c (replyArrived p bytes s) := by
  cases p with
  | echo test => exact echoArrived_withCrc c s test bytes
  | status => exact statusArrived_withCrc c s bytes
  | scan => rfl
  | busReset | startAck | captureByte => cases bytes <;> rfl
  | writeAck data =>
    cases bytes with
    | nil => rfl
    | cons a more => exact writeAckArrived_withCrc c s data a
  | readData => exact readDataArrived_withCrc c s bytes

theorem readFailed_withCrc (p : Purpose) : readFailed p (withCrc c s) = withCrc c (readFailed p s) := by
  cases p <;> rfl

theorem readTimedOut_withCrc (p : Purpose) : readTimedOut p (withCrc c s) = withCrc c (readTimedOut p s) := by
  cases p <;> rfl

theorem resumeRead_withCrc (a : Await) : resumeRead a (withCrc c s) = withCrc c (resumeRead a s) := by
  have reply : replyOf a (withCrc c s) = replyOf a s := rfl
  rw [resumeRead, resumeRead, reply]
  split
  · rfl
  · exact replyArrived_withCrc c (endRead _ s) _ _
  · exact readFailed_withCrc c (endRead _ s) _
  · exact readTimedOut_withCrc c (endRead _ s) _

theorem pushBack_withCrc (rest : List Byte) : pushBack rest (withCrc c s) = withCrc c (pushBack rest s) := by
  cases rest <;> rfl

theorem nextCommand_withCrc :
    nextCommand (withCrc c s) = (nextCommand s).map fun (i, u) => (i, withCrc c u) := by
  simp only [nextCommand, withCrc_host]
  split <;> rfl

end WithCrc

/-! ## Meanings that do not look at it -/

/-- An outcome with another CRC value in its next state. -/
def outcomeWithCrc (c : Word) : Result → Result
  | .next t => .next (withCrc c t)
  | .fault r => .fault r
  | .refused r => .refused r

/-- Whatever `crc` is, the outcome is the same but for `crc`, which it keeps. -/
def IgnoresCrc (k : State → Result) : Prop := ∀ c s, k (withCrc c s) = outcomeWithCrc c (k s)

theorem IgnoresCrc.ite {p : State → Prop} [DecidablePred p] {k l : State → Result}
    (hp : ∀ c s, p (withCrc c s) ↔ p s) (hk : IgnoresCrc k) (hl : IgnoresCrc l) :
    IgnoresCrc fun s => if p s then k s else l s := by
  intro c s
  simp only [hp, hk c s, hl c s, apply_ite (outcomeWithCrc c)]

theorem turnAway_ignoresCrc (r : HostResult) : IgnoresCrc (turnAway r) := fun _ _ => rfl

theorem raiseError_ignoresCrc (e : ErrorKind) (events : List BusEvent) : IgnoresCrc (raiseError e events) :=
  fun _ _ => rfl

section Gates
variable {k : State → Result} (hk : IgnoresCrc k)
include hk

theorem whenChannelFree_ignoresCrc : IgnoresCrc (whenChannelFree k) :=
  .ite (fun _ _ => Iff.rfl) (turnAway_ignoresCrc _) hk

theorem whenNotAbandoned_ignoresCrc : IgnoresCrc (whenNotAbandoned k) := by
  intro c s
  simp only [whenNotAbandoned, withCrc_host]
  split
  · exact hk c s
  · rfl
  · rfl

theorem whenOpen_ignoresCrc : IgnoresCrc (whenOpen k) :=
  whenChannelFree_ignoresCrc (whenNotAbandoned_ignoresCrc hk)

theorem whenLive_ignoresCrc : IgnoresCrc (whenLive k) :=
  whenChannelFree_ignoresCrc (.ite (fun _ _ => Iff.rfl) (whenNotAbandoned_ignoresCrc hk) (turnAway_ignoresCrc _))

theorem gate_ignoresCrc (i : Instr) : IgnoresCrc (gate i k) :=
  .ite (fun _ _ => Iff.rfl) (whenLive_ignoresCrc hk) (whenOpen_ignoresCrc hk)

theorem whenStreaming_ignoresCrc : IgnoresCrc (whenStreaming k) := by
  refine .ite (fun _ _ => Iff.rfl) (fun c s => ?_) (turnAway_ignoresCrc _)
  simp only [withCrc_host]
  split
  · exact hk c s
  · exact hk c s
  · rfl

theorem whenCapturing_ignoresCrc : IgnoresCrc (whenCapturing k) :=
  .ite (fun _ _ => Iff.rfl) hk (raiseError_ignoresCrc _ _)

theorem writeExact_ignoresCrc (bytes : List Byte) : IgnoresCrc (writeExact bytes k) :=
  .ite (fun _ _ => Iff.rfl) (fun _ _ => rfl) (fun c s => hk c { s with host := { s.host with tx := s.host.tx ++ bytes } })

end Gates

/-! ## The bridge commands and the procedures -/

theorem readExact_ignoresCrc (count : Nat) (p : Purpose) : IgnoresCrc (readExact count p) :=
  fun c s => congrArg _ (resumeRead_withCrc c (reading ⟨count, p⟩ s) ⟨count, p⟩)

theorem afterSending_ignoresCrc (i : Instr) : IgnoresCrc (afterSending i) := by
  intro c s
  unfold afterSending
  split
  · exact readExact_ignoresCrc _ _ c s
  · split <;> rfl

theorem exec_bridgeCommand_ignoresCrc {i : Instr} (hi : onBlock i = false) : IgnoresCrc (exec i) := by
  intro c s
  rw [exec_bridgeCommand hi, exec_bridgeCommand hi]
  exact gate_ignoresCrc (writeExact_ignoresCrc (afterSending_ignoresCrc i) _) i c s

theorem startWrite_ignoresCrc (bytes : List Byte) : IgnoresCrc (startWrite bytes) := by
  intro c s
  cases bytes <;> rfl

theorem startRead_ignoresCrc (count : Nat) : IgnoresCrc (startRead count) := by
  refine .ite (fun _ _ => Iff.rfl) (fun _ _ => rfl) fun c s => ?_
  cases count <;> rfl

theorem startOp_ignoresCrc (o : HostOp) : IgnoresCrc (startOp o) := by
  cases o with
  | connect => exact whenOpen_ignoresCrc fun _ _ => rfl
  | write bytes => exact whenLive_ignoresCrc (startWrite_ignoresCrc bytes)
  | read count => exact whenLive_ignoresCrc (startRead_ignoresCrc count)
  | captureRead => exact whenStreaming_ignoresCrc fun c s => readExact_ignoresCrc _ _ c (beginStream s)
  | close => exact fun _ _ => rfl

/-! ## The requests of the decoder -/

theorem completeGroup_setCrc (c : Word) (b : Block) :
    completeGroup { b with crc := c } = ({ (completeGroup b).1 with crc := c }, (completeGroup b).2) := by
  unfold completeGroup
  cases b.pendingStart <;> rfl

theorem stepData_setCrc (c : Word) (d : BitVec 3) (b : Block) :
    stepData d { b with crc := c } = (stepData d b).map fun (b', ev) => ({ b' with crc := c }, ev) := by
  have count : (appendBits d { b with crc := c }).accCount = (appendBits d b).accCount := rfl
  simp only [stepData, count]
  split
  · exact congrArg _ (completeGroup_setCrc c (appendBits d b))
  · rfl

/-- A symbol step neither reads nor writes `crc`. -/
theorem symbolStep_setCrc (c : Word) (p : ReservedSymbolPolicy) (n : Nibble) (b : Block) :
    symbolStep p n { b with crc := c } = (symbolStep p n b).map fun (b', ev) => ({ b' with crc := c }, ev) := by
  unfold symbolStep
  split
  · exact stepData_setCrc c _ b
  · split
    · rfl
    · rfl
    · rfl
    · cases p <;> rfl

theorem execCapSymbol_ignoresCrc (n : Nibble) : IgnoresCrc (execCapSymbol n) := by
  refine whenCapturing_ignoresCrc fun c s => ?_
  change answerSymbol (symbolStep s.params.reservedSymbol n { s.block with crc := c }) (withCrc c s) = _
  rw [symbolStep_setCrc]
  cases symbolStep s.params.reservedSymbol n s.block <;> rfl

/-- A symbol on its own is CAP_SYMBOL of it. -/
theorem exec_symbol_ignoresCrc {i : Instr} {n : Nibble} (h : encode i = .symbol n) : IgnoresCrc (exec i) := by
  intro c s
  rw [exec_of_encode_symbol h, exec_of_encode_symbol h]
  exact execCapSymbol_ignoresCrc n c s

theorem execCapByte_ignoresCrc (x : Byte) : IgnoresCrc (execCapByte x) := by
  refine whenCapturing_ignoresCrc fun c s => ?_
  have block : (withCrc c s).block = { s.block with crc := c } := rfl
  simp only [withCrc_params, block, symbolStep_setCrc]
  cases symbolStep s.params.reservedSymbol (highNibble x) s.block with
  | error e => rfl
  | ok r =>
    simp only [Except.map, symbolStep_setCrc]
    cases symbolStep s.params.reservedSymbol (lowNibble x) r.1 <;> rfl

/-! ## Outcomes that cannot be told apart -/

/-- The outcomes are equal, or next states without a session that differ in `crc` only. -/
inductive Alike : Result → Result → Prop
  | same (o : Result) : Alike o o
  | hidden (c : Word) {t : State} (closed : t.block.connected = false) : Alike (.next t) (.next (withCrc c t))

theorem IgnoresCrc.alike {k : State → Result} (hk : IgnoresCrc k) (c : Word) {s : State}
    (closed : ∀ t, k s = .next t → t.block.connected = false) : Alike (k s) (k (withCrc c s)) := by
  rw [hk c s]
  cases h : k s with
  | next t => exact .hidden c (closed t h)
  | fault r => exact .same _
  | refused r => exact .same _

/-! ## Every instruction -/

section Closed
variable (c : Word) {s : State} (closed : s.block.connected = false)
include closed

/-- An instruction that does not look at `crc` opens no session either, unless it is CRC_SEED. -/
theorem exec_alike_of_ignoresCrc {i : Instr} (hi : IgnoresCrc (exec i)) (notSeed : ∀ v, i ≠ .crcSeed v) :
    Alike (exec i s) (exec i (withCrc c s)) := by
  refine hi.alike c fun t ht => Bool.eq_false_of_not_eq_true fun session => ?_
  obtain ⟨opens, -⟩ := sessionAndCaptureChangeOnlyBy i s t ht
  obtain ⟨v, rfl⟩ := opens closed session
  exact notSeed v rfl

/-- A request that needs a session is refused without looking at `crc`. -/
theorem SessionRequest.alike {i : Instr} {effect : State → Result} (r : SessionRequest i effect) :
    Alike (exec i s) (exec i (withCrc c s)) := by
  cases hc : s.block.capActive with
  | true =>
    rw [r.exec_of_capturing hc, r.exec_of_capturing (s := withCrc c s) hc]
    exact .hidden c closed
  | false =>
    rw [r.exec_of_no_session hc closed, r.exec_of_no_session (s := withCrc c s) hc closed]
    exact .hidden c closed

/-- CRC_SEED overwrites `crc`, or is refused in capture mode. -/
theorem crcSeed_alike (v : Word) : Alike (exec (.crcSeed v) s) (exec (.crcSeed v) (withCrc c s)) := by
  cases hc : s.block.capActive with
  | true =>
    rw [exec_crcSeed_of_capturing v hc, exec_crcSeed_of_capturing v (s := withCrc c s) hc]
    exact .hidden c closed
  | false =>
    rw [exec_crcSeed_of_free v hc, exec_crcSeed_of_free v (s := withCrc c s) hc]
    exact .same _

theorem exec_alike (i : Instr) : Alike (exec i s) (exec i (withCrc c s)) := by
  cases i with
  | crcSeed v => exact crcSeed_alike c closed v
  | crcUpdateByte b => exact (crcUpdateByte_sessionRequest b).alike c closed
  | crcUpdateNibble n => exact (crcUpdateNibble_sessionRequest n).alike c closed
  | crcRead => exact crcRead_sessionRequest.alike c closed
  | crcCheck v => exact (crcCheck_sessionRequest v).alike c closed
  | capEnter => exact capEnter_sessionRequest.alike c closed
  | disconnect => exact .same _
  | capSymbol n => exact exec_alike_of_ignoresCrc c closed (execCapSymbol_ignoresCrc n) nofun
  | capByte x => exact exec_alike_of_ignoresCrc c closed (execCapByte_ignoresCrc x) nofun
  | symIdle | symStart | symStop | symReserved3 | symReserved4To7 _ | symData _ =>
    exact exec_alike_of_ignoresCrc c closed (exec_symbol_ignoresCrc rfl) nofun
  | errRead | reservedOp0 _ | reservedOpB _ | reservedOpC _ | reservedOpD _ | reservedOpE _ | reservedOpF _ =>
    exact .hidden c closed
  | _ => exact exec_alike_of_ignoresCrc c closed (exec_bridgeCommand_ignoresCrc rfl) nofun

/-! ## Every step -/

theorem waitStep_alike (a : Await) : Alike (.next (waitStep a s)) (.next (waitStep a (withCrc c s))) := by
  by_cases short : replyOf a s = .short
  · have short' : replyOf a (withCrc c s) = .short := short
    simp only [waitStep, short, short', withCrc_inputs]
    split
    · exact .same _
    · exact .hidden c closed
    · split <;> exact .hidden c closed
    · exact .hidden c closed
  · rw [waitStep_of_reply short, waitStep_of_reply (s := withCrc c s) short, resumeRead_withCrc]
    exact .hidden c ((resumeRead_move a s).block ▸ closed)

end Closed

/-- What two machines that cannot be told apart do next: the same instruction, in states without a session that differ in
`crc` only, or an end of the step that cannot be told apart. -/
inductive FetchedAlike : Fetched → Fetched → Prop
  | run (i : Instr) (c : Word) {u : State} (closed : u.block.connected = false) :
      FetchedAlike (.run i u) (.run i (withCrc c u))
  | done {o o' : Result} (h : Alike o o') : FetchedAlike (.done o) (.done o')

section Closed
variable (c : Word) {s : State} (closed : s.block.connected = false)
include closed

theorem fetchRequest_alike (w : RequestWord) : FetchedAlike (fetchRequest w s) (fetchRequest w (withCrc c s)) := by
  unfold fetchRequest
  split
  · exact .run _ c closed
  · exact .done (.hidden c closed)

theorem fetchCommand_alike (bytes : List Byte) :
    FetchedAlike (fetchCommand bytes s) (fetchCommand bytes (withCrc c s)) := by
  unfold fetchCommand
  split
  · rw [pushBack_withCrc]
    exact .run _ c (pushBack_block _ s ▸ closed)
  · exact .done (.same _)
  · exact .done (.same _)
  · exact .done (.hidden c closed)
  · exact .done (.hidden c closed)

theorem fetchInput_alike (x : Input) : FetchedAlike (fetchInput x s) (fetchInput x (withCrc c s)) := by
  cases x with
  | code e =>
    cases e with
    | request w =>
      simp only [fetchInput, noteRequest_withCrc]
      exact fetchRequest_alike c (noteRequest_block s w ▸ closed) w
    | symbol n => exact .run _ c closed
    | command bytes => exact fetchCommand_alike c closed bytes
  | op o => exact .done ((startOp_ignoresCrc o).alike c fun t h => (startOp_move h).block ▸ closed)
  | reset => exact .done (.same _)
  | exit => exact .done (.hidden c closed)

theorem fetch_alike : FetchedAlike (fetch s) (fetch (withCrc c s)) := by
  simp only [fetch, withCrc_host, withCrc_issued, withCrc_inputs, nextCommand_withCrc]
  split
  · exact .done (waitStep_alike c closed _)
  · split
    · next ws _ => exact fetchRequest_alike c (s := { s with issued := ws }) closed _
    · cases h : nextCommand s with
      | some next => exact .run _ c (nextCommand_block h ▸ closed)
      | none =>
        cases s.inputs with
        | nil => exact .done (.hidden c closed)
        | cons x xs => exact fetchInput_alike c (s := { s with inputs := xs }) closed x

theorem step_alike : Alike (step s) (step (withCrc c s)) := by
  have fetched := fetch_alike c closed
  unfold step
  generalize fetch s = f, fetch (withCrc c s) = f' at fetched ⊢
  cases fetched with
  | run i c' closed' => exact exec_alike c' closed' i
  | done h => exact h

end Closed

/-- Machines that cannot be told apart stay so. -/
theorem run_alike (k : Nat) {s s' : State} (h : Alike (.next s) (.next s')) :
    Alike (Host.Core.run core k s) (Host.Core.run core k s') := by
  induction k generalizing s s' with
  | zero => exact h
  | succ k ih =>
    cases h with
    | same => exact .same _
    | hidden c closed =>
      have one : Alike (core.step s) (core.step (withCrc c s)) := step_alike c closed
      simp only [Host.Core.run]
      generalize core.step s = o, core.step (withCrc c s) = o' at one ⊢
      cases one with
      | same => exact .same _
      | hidden c' closed' => exact ih (.hidden c' closed')

/-- Settles O35: by induction on the number of steps, the outcomes cannot be told apart. -/
theorem crcIsHiddenWithoutASession : Obligations.CrcIsHiddenWithoutASession := by
  intro k s t c closed h
  have alike := run_alike k (.hidden c closed)
  rw [h] at alike
  generalize Host.Core.run core k (withCrc c s) = o at alike ⊢
  cases alike with
  | same => exact ⟨t, rfl, rfl, rfl, rfl, fun _ => rfl⟩
  | hidden c' closed' => exact ⟨withCrc c' t, rfl, rfl, rfl, rfl, fun session => absurd session (by simp [closed'])⟩

end Sys2Proof.Claims
end
